-- ==== Sys2Proof/Word.lean ====
section
/-!
DEFINITION. The widths the MSCC works with (00_scope.md R12, R13) and the four channels (R8).
-/
namespace Sys2Proof

/-- A command word or a result word (30_encoding.md R52, R53). -/
abbrev Word := BitVec 32

/-- A millisecond timestamp or interval (10_state.md R32). -/
abbrev Time := BitVec 32

/-- A set of channels: bit i stands for channel i (00_scope.md R12). -/
abbrev ChanMask := BitVec 4

/-- A set of fault classes, in the bit order of 10_state.md R23. -/
abbrev FaultMask := BitVec 5

/-- A channel, 0 to 3 (00_scope.md R8: `NCH = 4`). -/
abbrev Chan := Fin 4

/-- The channels in index order, the order of every loop of the spec. -/
def chans : List Chan := [0, 1, 2, 3]

/-- One value per channel. -/
def perChan {α : Type} (f : Chan → α) : Vector α 4 := #v[f 0, f 1, f 2, f 3]

/-- The value of channel i. -/
def chanAt {α : Type} (v : Vector α 4) (i : Chan) : α := v[i]

/-- `elapsed(now, t) = (now - t) mod 2^32` (00_scope.md R14). -/
def elapsed (now t : Time) : Time := now - t

end Sys2Proof
end

