-- ==== Sys2Proof/Syntax.lean ====
section
/-!
DEFINITION. MSCC command set v1: one constructor per row of spec/opcode_table.json (30_encoding.md R56). An operand is the
raw field of the command word (R52): an index of 4 to 15, an empty set or a bad data value is a term of this type, and its
meaning rejects it.
-/
namespace Sys2Proof

/-- The 24 commands. `idx` is the channel index field, `msk` the channel mask field, `dat` the data field (R52, R55). -/
inductive Instr where
  /-- 0x00 NOP (R79). -/
  | nop
  /-- 0x01 INIT (R80). -/
  | init
  /-- 0x02 TICK (R82). -/
  | tick
  /-- 0x03 READ_REG addr16 (R83). -/
  | readReg (dat : BitVec 16)
  /-- 0x10 START ch (R68). -/
  | start (idx : BitVec 4)
  /-- 0x11 STOP ch (R69). -/
  | stop (idx : BitVec 4)
  /-- 0x12 SET_AMP ch, amp16 (R70). -/
  | setAmp (idx : BitVec 4) (dat : BitVec 16)
  /-- 0x13 RESET_OVL ch (R71). -/
  | resetOvl (idx : BitVec 4)
  /-- 0x14 CLEAR_FAULTS ch (R72). -/
  | clearFaults (idx : BitVec 4)
  /-- 0x15 GET_STATUS ch (R73). -/
  | getStatus (idx : BitVec 4)
  /-- 0x16 IS_SAFE ch (R74). -/
  | isSafe (idx : BitVec 4)
  /-- 0x17 AMP_BCAST amp16 (R84). -/
  | ampBcast (dat : BitVec 16)
  /-- 0x20 COORD_START set (R90). -/
  | coordStart (msk : BitVec 4)
  /-- 0x21 CONFIRM ch (R91). -/
  | confirm (idx : BitVec 4)
  /-- 0x22 COORD_STOP set (R92). -/
  | coordStop (msk : BitVec 4)
  /-- 0x23 UNIT_START ch (R93). -/
  | unitStart (idx : BitVec 4)
  /-- 0x24 UNIT_STOP ch (R94). -/
  | unitStop (idx : BitVec 4)
  /-- 0x25 REPORT_FAULT ch, fmask5 (R95). -/
  | reportFault (idx : BitVec 4) (dat : BitVec 16)
  /-- 0x26 ESTOP (R96). -/
  | estop
  /-- 0x27 SET_INHIBIT bool1 (R97). -/
  | setInhibit (dat : BitVec 16)
  /-- 0x28 REARM (R98). -/
  | rearm
  /-- 0x30 SET_SIM ch, bool1 (R102). -/
  | setSim (idx : BitVec 4) (dat : BitVec 16)
  /-- 0x31 INJECT_FAULT ch, fmask5 (R103). -/
  | injectFault (idx : BitVec 4) (dat : BitVec 16)
  /-- 0x32 FORCE_STATE ch, state3 (R104). -/
  | forceState (idx : BitVec 4) (dat : BitVec 16)
  deriving DecidableEq, Repr

end Sys2Proof
end

