-- ==== Sys2Proof/Decode.lean ====
section
/-!
DEFINITION. The decoder and the encoder of the one command format C (30_encoding.md R52, R56 to R58), both read from one
list of the opcode map's rows.
-/
namespace Sys2Proof

/-- What the decoder makes of a command word. -/
inductive Decoded where
  /-- The word is this command. -/
  | instr (i : Instr)
  /-- R58: the opcode is not assigned, or is a diagnostic opcode that is not present. -/
  | illegalOpcode
  /-- R57: the opcode is assigned, and a field it does not use is not zero. -/
  | reservedField
  deriving DecidableEq, Repr

/-- `word[31:24]` (R52). -/
def opField (w : Word) : BitVec 8 := w.extractLsb' 24 8

/-- `word[23:20]` (R52). -/
def idxField (w : Word) : BitVec 4 := w.extractLsb' 20 4

/-- `word[19:16]` (R52). -/
def mskField (w : Word) : BitVec 4 := w.extractLsb' 16 4

/-- `word[15:0]` (R52). -/
def datField (w : Word) : BitVec 16 := w.extractLsb' 0 16

/-- `word = {op, idx, msk, dat}` (R52). -/
def wordOf (op : BitVec 8) (idx msk : BitVec 4) (dat : BitVec 16) : Word := op ++ idx ++ msk ++ dat

/-- A row of the opcode map R56: the opcode, which fields it uses, whether it is one of the diagnostic opcodes of
43_diagnostics.md R101, and the command. -/
structure OpRow where
  op : BitVec 8
  usesIdx : Bool
  usesMsk : Bool
  usesDat : Bool
  diag : Bool
  command : BitVec 4 → BitVec 4 → BitVec 16 → Instr

/-- System rows of R56. -/
def systemRows : List OpRow := [
  ⟨0x00, false, false, false, false, fun _ _ _ => .nop⟩,
  ⟨0x01, false, false, false, false, fun _ _ _ => .init⟩,
  ⟨0x02, false, false, false, false, fun _ _ _ => .tick⟩,
  ⟨0x03, false, false, true, false, fun _ _ d => .readReg d⟩]

/-- Unit rows of R56. -/
def unitRows : List OpRow := [
  ⟨0x10, true, false, false, false, fun i _ _ => .start i⟩,
  ⟨0x11, true, false, false, false, fun i _ _ => .stop i⟩,
  ⟨0x12, true, false, true, false, fun i _ d => .setAmp i d⟩,
  ⟨0x13, true, false, false, false, fun i _ _ => .resetOvl i⟩,
  ⟨0x14, true, false, false, false, fun i _ _ => .clearFaults i⟩,
  ⟨0x15, true, false, false, false, fun i _ _ => .getStatus i⟩,
  ⟨0x16, true, false, false, false, fun i _ _ => .isSafe i⟩,
  ⟨0x17, false, false, true, false, fun _ _ d => .ampBcast d⟩]

/-- Master rows of R56. -/
def masterRows : List OpRow := [
  ⟨0x20, false, true, false, false, fun _ m _ => .coordStart m⟩,
  ⟨0x21, true, false, false, false, fun i _ _ => .confirm i⟩,
  ⟨0x22, false, true, false, false, fun _ m _ => .coordStop m⟩,
  ⟨0x23, true, false, false, false, fun i _ _ => .unitStart i⟩,
  ⟨0x24, true, false, false, false, fun i _ _ => .unitStop i⟩,
  ⟨0x25, true, false, true, false, fun i _ d => .reportFault i d⟩,
  ⟨0x26, false, false, false, false, fun _ _ _ => .estop⟩,
  ⟨0x27, false, false, true, false, fun _ _ d => .setInhibit d⟩,
  ⟨0x28, false, false, false, false, fun _ _ _ => .rearm⟩]

/-- Diagnostic rows of R56. -/
def diagRows : List OpRow := [
  ⟨0x30, true, false, true, true, fun i _ d => .setSim i d⟩,
  ⟨0x31, true, false, true, true, fun i _ d => .injectFault i d⟩,
  ⟨0x32, true, false, true, true, fun i _ d => .forceState i d⟩]

/-- The opcode map R56. -/
def opRows : List OpRow := systemRows ++ unitRows ++ masterRows ++ diagRows

/-- Every field the row does not use is zero (R57). -/
def OpRow.unusedZero (r : OpRow) (w : Word) : Bool :=
  (r.usesIdx || decide (idxField w = 0#4)) && (r.usesMsk || decide (mskField w = 0#4)) &&
    (r.usesDat || decide (datField w = 0#16))

/-- The decoder: the opcode from `word[31:24]` alone, then the unused fields against zero (R57, R58). `diag` is the
parameter DIAG_PRESENT. -/
def decode (diag : Bool) (w : Word) : Decoded :=
  match opRows.find? (fun r => r.op == opField w && (diag || !r.diag)) with
  | none => .illegalOpcode
  | some r => if r.unusedZero w then .instr (r.command (idxField w) (mskField w) (datField w)) else .reservedField

/-- The encoder, from the same columns of R56; a field marked `-` is 0. -/
def encode : Instr → Word
  | .nop => wordOf 0x00 0 0 0
  | .init => wordOf 0x01 0 0 0
  | .tick => wordOf 0x02 0 0 0
  | .readReg d => wordOf 0x03 0 0 d
  | .start i => wordOf 0x10 i 0 0
  | .stop i => wordOf 0x11 i 0 0
  | .setAmp i d => wordOf 0x12 i 0 d
  | .resetOvl i => wordOf 0x13 i 0 0
  | .clearFaults i => wordOf 0x14 i 0 0
  | .getStatus i => wordOf 0x15 i 0 0
  | .isSafe i => wordOf 0x16 i 0 0
  | .ampBcast d => wordOf 0x17 0 0 d
  | .coordStart m => wordOf 0x20 0 m 0
  | .confirm i => wordOf 0x21 i 0 0
  | .coordStop m => wordOf 0x22 0 m 0
  | .unitStart i => wordOf 0x23 i 0 0
  | .unitStop i => wordOf 0x24 i 0 0
  | .reportFault i d => wordOf 0x25 i 0 d
  | .estop => wordOf 0x26 0 0 0
  | .setInhibit d => wordOf 0x27 0 0 d
  | .rearm => wordOf 0x28 0 0 0
  | .setSim i d => wordOf 0x30 i 0 d
  | .injectFault i d => wordOf 0x31 i 0 d
  | .forceState i d => wordOf 0x32 i 0 d

/-- The bits of a table row as one command word: every bit above `nbits` is 0. -/
def tableWord (nbits w : Nat) : Word := BitVec.ofNat 32 (w % 2 ^ nbits)

/-- The command the decoder reads from the low `nbits` bits of `w`, in the numbering of spec/opcode_table.json, with every
row of the table present. A command word crosses the port whole (20_memory.md R41), so there is no byte order to apply. -/
def decodeTableWord (nbits w : Nat) : Option Instr :=
  match decode true (tableWord nbits w) with
  | .instr i => some i
  | .illegalOpcode => none
  | .reservedField => none

end Sys2Proof
end

