-- ==== Sys2Proof/Config.lean ====
section
/-!
DEFINITION. The implementation parameters of 00_scope.md R9. An OPEN parameter is a field of `Config`; a fixed one is a
constant. A configuration stands in the machine's state (log entry 4), so a claim about every state is a claim about every
configuration.
-/
namespace Sys2Proof

/-- Actuator arbitration policies (00_scope.md R9, 41_resource_coordinator.md R86). -/
inductive ArbPolicy where
  | mostRecent | maximum | average
  deriving DecidableEq, Repr

/-- The pin and channel numbers `CH_PINS` of one channel (00_scope.md R9, 60_exceptions.md R121). They have no semantic
effect (93 I17); the spec gives no shape for them. DESIGN CHOICE, safe, log entry 6. -/
structure ChannelPins where
  startPin : Nat
  resetPin : Nat
  overloadPin : Nat
  lockPin : Nat
  powerChannel : Nat
  deriving DecidableEq, Repr

/-- The parameters of 00_scope.md R9 that the source leaves open, as the arguments of the model. -/
structure Config where
  /-- `T_START_DELAY`: STARTING to RUNNING. -/
  tStartDelay : Time
  /-- `T_STOP_SETTLE`: STOPPING to IDLE. -/
  tStopSettle : Time
  /-- `T_RESET_PULSE`: width of the overload reset pulse. -/
  tResetPulse : Time
  /-- `T_DEB_OVL`. -/
  tDebOvl : Time
  /-- `T_DEB_FUL`. -/
  tDebFul : Time
  /-- `T_DEB_HW`. -/
  tDebHw : Time
  /-- `T_DEB_WD`. -/
  tDebWd : Time
  /-- `T_COMM_TIMEOUT`, default 1000. -/
  tCommTimeout : Time
  /-- `T_SEQ_TIMEOUT`: limit of a coordinated start or stop. -/
  tSeqTimeout : Time
  /-- `DUTY_MAX`, default 255. -/
  dutyMax : BitVec 16
  /-- `ARB_POLICY`, default MOST_RECENT. -/
  arbPolicy : ArbPolicy
  /-- `DIAG_PRESENT`: whether the opcodes 0x30 to 0x32 exist (43_diagnostics.md R101). -/
  diagPresent : Bool
  /-- `POWER_FROM_RAW`, a total function from u16 to u16, as a finite table: an input that is listed maps to its entry, any
  other to itself. Every function from u16 to u16 has such a table (Laws/Config.lean). DESIGN CHOICE, safe, log entry 5. -/
  powerTable : List (BitVec 16 × BitVec 16)
  /-- `CH_PINS`, without semantic effect (93 I17). -/
  chPins : Vector ChannelPins 4
  /-- `T_WATCHDOG`: the external watchdog's bound, which the block never reads (70_reset_and_hazards.md R126). -/
  tWatchdog : Time
  deriving DecidableEq, Repr

namespace Config

/-- `AMP_MIN`, fixed (00_scope.md R9). -/
def ampMin : Int := 20

/-- `AMP_MAX`, fixed (00_scope.md R9). -/
def ampMax : Int := 100

/-- `AMP_RESET`, decided 20 (00_scope.md R9, 92 D28). -/
def ampReset : BitVec 8 := 20

/-- `FREQ_DIVIDER`, fixed (00_scope.md R9). -/
def freqDivider : Nat := 10

/-- Parameter legality, 00_scope.md R10: every timing parameter the block reads is below 2^31, and `1 <= DUTY_MAX`. (The
upper bound 65535 of DUTY_MAX is its width, and `AMP_MIN <= AMP_RESET <= AMP_MAX` holds of the constants.) -/
def legal (c : Config) : Bool :=
  [c.tStartDelay, c.tStopSettle, c.tResetPulse, c.tDebOvl, c.tDebFul, c.tDebHw, c.tDebWd, c.tCommTimeout,
    c.tSeqTimeout].all (fun t => decide (t.toNat < 2 ^ 31)) && decide (1 ≤ c.dutyMax.toNat)

/-- The test configuration TC of 00_scope.md R11, with no pins bound. DESIGN CHOICE as the configuration of `State.reset`,
unsafe, log entry 4: TC is not normative. -/
def test : Config where
  tStartDelay := 100
  tStopSettle := 100
  tResetPulse := 50
  tDebOvl := 50
  tDebFul := 50
  tDebHw := 0
  tDebWd := 0
  tCommTimeout := 1000
  tSeqTimeout := 500
  dutyMax := 255
  arbPolicy := .mostRecent
  diagPresent := true
  powerTable := []
  chPins := perChan fun _ => ⟨0, 0, 0, 0, 0⟩
  tWatchdog := 0

end Config
end Sys2Proof
end

