-- ==== Sys2Proof/Machine/Operands.lean ====
section
/-!
DEFINITION. Every operand kind of 30_encoding.md R55 (which raw values are valid, and the value they stand for), and the
set helpers of 00_scope.md R12.
-/
namespace Sys2Proof.Machine

/-- The channel an index field names: valid iff `idx <= 3` (R55). -/
def chanOf (idx : BitVec 4) : Option Chan :=
  if h : idx.toNat < 4 then some ⟨idx.toNat, h⟩ else none

/-- `clamp(v, lo, hi) = min(max(v, lo), hi)` on the integers (00_scope.md R13). -/
def clamp (v lo hi : Int) : Int := min (max v lo) hi

/-- amp16: `dat` as a signed 16-bit integer, clamped to [AMP_MIN, AMP_MAX] (R55). -/
def amp16 (dat : BitVec 16) : BitVec 8 :=
  BitVec.ofInt 8 (clamp dat.toInt Config.ampMin Config.ampMax)

/-- fmask5 is valid iff `dat[15:5] == 0` and `dat[4:0] != 0` (R55). -/
def fmask5Valid (dat : BitVec 16) : Bool :=
  decide (dat.extractLsb' 5 11 = 0#11) && decide (dat.extractLsb' 0 5 ≠ 0#5)

/-- The fault set a valid fmask5 stands for, `dat[4:0]` (R55). -/
def fmask5 (dat : BitVec 16) : FaultMask := dat.extractLsb' 0 5

/-- bool1 is valid iff `dat` is 0 or 1 (R55). -/
def bool1Valid (dat : BitVec 16) : Bool := decide (dat = 0#16) || decide (dat = 1#16)

/-- The Bool a valid bool1 stands for (R55). -/
def bool1 (dat : BitVec 16) : Bool := decide (dat = 1#16)

/-- state3 is valid iff `dat <= 7` (R55). -/
def state3Valid (dat : BitVec 16) : Bool := decide (dat.toNat ≤ 7)

/-- A channel set is valid iff it is not empty (R55). -/
def chanSetValid (msk : ChanMask) : Bool := decide (msk ≠ 0#4)

/-- `bit(i)` as a channel mask (00_scope.md R12). -/
def chanBit (i : Chan) : ChanMask := 1#4 <<< i.val

/-- Channel i is in the set. -/
def hasChan (m : ChanMask) (i : Chan) : Bool := m.getLsbD i.val

/-- The channel set of a predicate. -/
def chanSet (p : Chan → Bool) : ChanMask :=
  BitVec.ofBool (p 3) ++ BitVec.ofBool (p 2) ++ BitVec.ofBool (p 1) ++ BitVec.ofBool (p 0)

/-- `popcount` of a channel set (00_scope.md R13). -/
def chanCount (m : ChanMask) : Nat := (chans.filter (hasChan m)).length

end Sys2Proof.Machine
end

