-- ==== Sys2Proof/Machine/State.lean ====
section
/-!
DEFINITION. The architectural state of 10_state.md (R17 to R29), the ports of R31 to R33 and the reset values of R37, as plain
data.
-/
namespace Sys2Proof.Machine

/-- UState (10_state.md R22). -/
inductive UState where
  | idle | starting | running | stopping | fault | unknown
  deriving DecidableEq, Repr

/-- MState (10_state.md R27). -/
inductive MState where
  | idle | coordinatedStart | running | emergencyStop | faultIsolation
  deriving DecidableEq, Repr

/-- The accepted request a unit has not committed yet (10_state.md R21, R24). -/
inductive Pending where
  | none | start | stop | reset | clear
  deriving DecidableEq, Repr

/-- The five fault classes, in the bit order of 10_state.md R23. -/
inductive FaultClass where
  | ovl | ful | comm | hw | wd
  deriving DecidableEq, Repr

/-- The result codes of 30_encoding.md R54. -/
inductive ResultCode where
  | ok | illegalOpcode | reservedField | badIndex | badValue | badState | inhibited | notInit | lockedOut
  deriving DecidableEq, Repr

/-- The debounce record of one fault class, `deb[k]` (10_state.md R21, 60_exceptions.md R111). -/
structure Debounce where
  level : Bool
  pend : Bool
  since : Time
  deriving DecidableEq, Repr

/-- `u[i]`, the state of one Unit Controller: every field of 10_state.md R21. -/
structure UnitState where
  /-- `id`: u2, the constant channel identity. -/
  id : BitVec 2
  state : UState
  /-- `faults`: the latched fault mask (R23). -/
  faults : FaultMask
  /-- `freq_hz`. -/
  freqHz : BitVec 32
  /-- `power_w`. -/
  powerW : BitVec 16
  /-- `amp`: the amplitude setpoint, percent. -/
  amp : BitVec 8
  running : Bool
  locked : Bool
  /-- `comm_ok`. -/
  commOk : Bool
  sim : Bool
  /-- `start_count`. -/
  startCount : BitVec 16
  /-- `fault_count`. -/
  faultCount : BitVec 16
  /-- `start_out`, an output line (R34). -/
  startOut : Bool
  /-- `reset_out`, an output line (R34). -/
  resetOut : Bool
  pending : Pending
  pulse : Bool
  /-- `t_state`. -/
  tState : Time
  /-- `deb[k]`, in the order OVL, FUL, COMM, HW, WD. -/
  deb : Vector Debounce 5
  /-- `inj`: injected faults awaiting the next update. -/
  inj : FaultMask
  deriving DecidableEq, Repr

/-- `rc`, the Resource Coordinator (10_state.md R26). -/
structure RcState where
  /-- The shared actuator value, an output (R34). -/
  duty : BitVec 16
  /-- Recency order of setpoint changes, most recent first: a permutation of (0,1,2,3) in every state a run reaches
  (Safety.lean; log entry 10). -/
  order : List Chan
  bcast : BitVec 8
  deriving DecidableEq, Repr

/-- `m.last_fault` (10_state.md R28). -/
structure LastFault where
  valid : Bool
  timeout : Bool
  ch : BitVec 2
  mask : FaultMask
  deriving DecidableEq, Repr

/-- `m`, the Master Coordinator (10_state.md R28). -/
structure McState where
  state : MState
  inhibit : Bool
  active : ChanMask
  confirmed : ChanMask
  faulted : ChanMask
  /-- `stop_wait`. -/
  stopWait : ChanMask
  /-- `t_start_seq`. -/
  tStartSeq : Time
  /-- `t_stop_seq`. -/
  tStopSeq : Time
  /-- `last_fault`. -/
  lastFault : LastFault
  deriving DecidableEq, Repr

/-- `sys`, block-level state (10_state.md R29). -/
structure SysState where
  initialized : Bool
  /-- `last_comm`. -/
  lastComm : Time
  /-- `comm_lost`. -/
  commLost : Bool
  deriving DecidableEq, Repr

/-- One channel's input sample (10_state.md R33). -/
structure ChannelSample where
  overload : Bool
  lock : Bool
  hwFault : Bool
  wdFault : Bool
  powerRaw : BitVec 16
  pulseCount : BitVec 16
  windowMs : BitVec 16
  deriving DecidableEq, Repr

/-- The input sample `in` of a transaction (10_state.md R33). -/
structure Sample where
  commSeen : Bool
  phys : Vector ChannelSample 4
  sim : Vector ChannelSample 4
  deriving DecidableEq, Repr

/-- A transaction of 10_state.md R31. -/
inductive Transaction where
  /-- `Cmd(word, now, in)`. -/
  | cmd (word : Word) (now : Time) (inp : Sample)
  /-- `Reset`: a power-on or a watchdog-triggered restart. -/
  | reset
  deriving DecidableEq, Repr

/-- The state of the machine: the tuple `(sys, u, rc, m)` of 10_state.md R17, its parameters and its ports. -/
structure State where
  sys : SysState
  u : Vector UnitState 4
  rc : RcState
  m : McState
  /-- The parameters of 00_scope.md R9, constant for the model's lifetime (70_reset_and_hazards.md R127). The model's own
  field (log entry 4). -/
  cfg : Config
  /-- The transactions the host has presented and the block has not run, first one first (R31). The model's own field
  (log entry 1). -/
  port : List Transaction
  /-- `now` of the transaction in progress, or of the last one (R32). The model's own field (log entry 2). -/
  now : Time
  /-- `in` of the transaction in progress, or of the last one (R33). The model's own field (log entry 2). -/
  inp : Sample
  /-- The result word the last transaction returned; none where it returned none (R31, 30_encoding.md R53). The model's
  own field (log entry 3). -/
  result : Option Word
  deriving DecidableEq, Repr

/-- Why the machine stops with a fault: never. No event of the spec stops the block ("every failure path resolves to a
defined safe state", 60_exceptions.md R116), so this type has no constructor; a channel fault and a rejected command are next
states. Log entry 11. -/
inductive Fault where
  deriving DecidableEq, Repr

/-- Why a step has no meaning. -/
inductive Refusal where
  /-- No arm of exec raises it: every command has its meaning. Safe. -/
  | notModelled (mnemonic : String)
  /-- Raised by step on a transaction when the configuration is outside 00_scope.md R10; 93 I14 treats that as `refuse`.
  Safe: nothing is specified for it. Log entry 7. -/
  | illegalConfig
  deriving DecidableEq, Repr

/-- The debounce record after Reset and after INIT (R37). -/
def Debounce.cleared : Debounce := ⟨false, false, 0⟩

/-- The nominal sample of one channel (95_test_vectors.md). -/
def ChannelSample.nominal : ChannelSample := ⟨false, true, false, false, 0, 0, 0⟩

/-- The nominal sample (95_test_vectors.md). DESIGN CHOICE as the sample held at reset, log entry 2. -/
def Sample.nominal : Sample := ⟨true, perChan fun _ => .nominal, perChan fun _ => .nominal⟩

/-- Unit i after a Reset transaction (R37). -/
def UnitState.afterReset (i : Chan) : UnitState where
  id := BitVec.ofNat 2 i.val
  state := .unknown
  faults := 0
  freqHz := 0
  powerW := 0
  amp := Config.ampReset
  running := false
  locked := false
  commOk := false
  sim := false
  startCount := 0
  faultCount := 0
  startOut := false
  resetOut := false
  pending := .none
  pulse := false
  tState := 0
  deb := Vector.replicate 5 .cleared
  inj := 0

/-- The Resource Coordinator after a Reset transaction and after INIT (R37). -/
def RcState.cleared : RcState := ⟨0, chans, 0⟩

/-- `m.last_fault` with all fields 0 (R37). -/
def LastFault.cleared : LastFault := ⟨false, false, 0, 0⟩

/-- The Master Coordinator after a Reset transaction (R37). -/
def McState.afterReset : McState := ⟨.idle, false, 0, 0, 0, 0, 0, 0, .cleared⟩

/-- The block right after a Reset transaction (R37, R125): only the parameters and the transactions still to come are kept. -/
def State.afterReset (cfg : Config) (port : List Transaction) : State where
  sys := ⟨false, 0, false⟩
  u := perChan UnitState.afterReset
  rc := .cleared
  m := .afterReset
  cfg := cfg
  port := port
  now := 0
  inp := .nominal
  result := none

/-- The machine after power-on, with no transaction presented. Its configuration is TC: DESIGN CHOICE, unsafe, log entry 4. -/
def State.reset : State := State.afterReset Config.test []

end Sys2Proof.Machine
end

