-- ==== Sys2Proof/Machine/Flags.lean ====
section
/-!
DEFINITION. The codes of the enumerations, the fault-mask bits, every status and flag word (10_state.md R35, R36), and the
register read port computed from them.
-/
namespace Sys2Proof.Machine

/-- 3-bit code of a unit state (10_state.md R22). -/
def UState.code : UState → BitVec 3
  | .idle => 0
  | .starting => 1
  | .running => 2
  | .stopping => 3
  | .fault => 4
  | .unknown => 5

/-- The unit state FORCE_STATE stores for a state3 operand: codes 6 and 7 store UNKNOWN (10_state.md R22, 43 R104). -/
def UState.ofOperand (dat : BitVec 16) : UState :=
  match dat.toNat with
  | 0 => .idle
  | 1 => .starting
  | 2 => .running
  | 3 => .stopping
  | 4 => .fault
  | _ => .unknown

/-- 3-bit code of the master state (10_state.md R27). -/
def MState.code : MState → BitVec 3
  | .idle => 0
  | .coordinatedStart => 1
  | .running => 2
  | .emergencyStop => 3
  | .faultIsolation => 4

/-- 4-bit result code (30_encoding.md R54). -/
def ResultCode.code : ResultCode → BitVec 4
  | .ok => 0
  | .illegalOpcode => 1
  | .reservedField => 2
  | .badIndex => 3
  | .badValue => 4
  | .badState => 5
  | .inhibited => 6
  | .notInit => 7
  | .lockedOut => 8

/-- The result word: value in bits 31:16, zeros, code in bits 3:0 (30_encoding.md R53). -/
def resultWord (value : BitVec 16) (c : ResultCode) : Word := value ++ 0#12 ++ c.code

/-- Position of a class in the fault mask and in `deb` (10_state.md R23). -/
def FaultClass.index : FaultClass → Fin 5
  | .ovl => 0
  | .ful => 1
  | .comm => 2
  | .hw => 3
  | .wd => 4

/-- The mask bit of a class (10_state.md R23). -/
def FaultClass.bit (k : FaultClass) : FaultMask := 1#5 <<< k.index.val

/-- The classes in the order the unit update walks them (40_unit_controller.md R76). -/
def FaultClass.all : List FaultClass := [.ovl, .ful, .comm, .hw, .wd]

/-- Class k is in the mask. -/
def hasClass (f : FaultMask) (k : FaultClass) : Bool := f.getLsbD k.index.val

/-- The mask of a predicate on classes. -/
def faultSet (p : FaultClass → Bool) : FaultMask :=
  BitVec.ofBool (p .wd) ++ BitVec.ofBool (p .hw) ++ BitVec.ofBool (p .comm) ++ BitVec.ofBool (p .ful) ++
    BitVec.ofBool (p .ovl)

/-- The number of classes in a mask, `popcount` (00_scope.md R13). -/
def classCount (f : FaultMask) : Nat := (FaultClass.all.filter (hasClass f)).length

/-- The debounce record of class k. -/
def debAt (deb : Vector Debounce 5) (k : FaultClass) : Debounce := deb[k.index]

/-- `deb[k]` of a unit. -/
def UnitState.debOf (u : UnitState) (k : FaultClass) : Debounce := debAt u.deb k

/-- `u[i]`. -/
def State.unit (s : State) (i : Chan) : UnitState := chanAt s.u i

/-- `safe(i)`, the UC's isSafe() (40_unit_controller.md R64). -/
def safe (u : UnitState) : Bool :=
  (decide (u.state = .idle) || decide (u.state = .fault)) && !u.startOut && !u.resetOut

/-- `(pending != NONE) or pulse`: bit 15 of the status word (10_state.md R36). -/
def busy (u : UnitState) : Bool := decide (u.pending ≠ .none) || u.pulse

/-- `status_word(i)` (10_state.md R36). -/
def statusWord (u : UnitState) : BitVec 16 :=
  BitVec.ofBool (busy u) ++ BitVec.ofBool (safe u) ++ BitVec.ofBool u.resetOut ++ BitVec.ofBool u.startOut ++
    BitVec.ofBool u.sim ++ BitVec.ofBool u.commOk ++ BitVec.ofBool u.locked ++ BitVec.ofBool u.running ++ u.faults ++
    u.state.code

/-- CHi_CMD (10_state.md R35). -/
def chCmdWord (u : UnitState) : BitVec 16 :=
  0#12 ++ BitVec.ofBool (decide (u.pending = .clear)) ++ BitVec.ofBool (decide (u.pending = .reset) || u.pulse) ++
    BitVec.ofBool (decide (u.pending = .stop)) ++ BitVec.ofBool (decide (u.pending = .start))

/-- CHi_FLAGS (10_state.md R35). -/
def chFlagsWord (u : UnitState) : BitVec 16 :=
  0#6 ++ u.id ++ BitVec.ofBool u.pulse ++ BitVec.ofBool (safe u) ++ BitVec.ofBool u.resetOut ++ BitVec.ofBool u.startOut ++
    BitVec.ofBool u.sim ++ BitVec.ofBool u.commOk ++ BitVec.ofBool u.locked ++ BitVec.ofBool u.running

/-- CHi_FREQ saturates: `min(freq_hz, 65535)` (10_state.md R35, 93 I16). -/
def chFreqWord (u : UnitState) : BitVec 16 := BitVec.ofNat 16 (min u.freqHz.toNat 65535)

/-- `run_mask[i] = u[i].running` (10_state.md R35). -/
def runMask (s : State) : ChanMask := chanSet fun i => (s.unit i).running

/-- SYS_MASTER_MASKS (10_state.md R35). -/
def masterMasksWord (m : McState) : BitVec 16 := m.stopWait ++ m.faulted ++ m.confirmed ++ m.active

/-- SYS_LAST_FAULT (10_state.md R35). -/
def lastFaultWord (f : LastFault) : BitVec 16 :=
  BitVec.ofBool f.valid ++ BitVec.ofBool f.timeout ++ 0#5 ++ f.mask ++ 0#2 ++ f.ch

/-- SYS_FLAGS (10_state.md R35). -/
def sysFlagsWord (s : State) : BitVec 16 :=
  0#12 ++ BitVec.ofBool (decide (s.m.stopWait ≠ 0#4)) ++ BitVec.ofBool (decide (s.m.state = .coordinatedStart)) ++
    BitVec.ofBool s.sys.commLost ++ BitVec.ofBool s.sys.initialized

/-- The packed final states TICK returns (41_resource_coordinator.md R82). -/
def packedStates (s : State) : BitVec 16 :=
  0#1 ++ s.m.state.code ++ (s.unit 3).state.code ++ (s.unit 2).state.code ++ (s.unit 1).state.code ++
    (s.unit 0).state.code

/-- Register `off` of a channel block; none where the offset is unmapped (10_state.md R35). -/
def channelReg (u : UnitState) (off : Nat) : Option (BitVec 16) :=
  match off with
  | 0x0 => some (chCmdWord u)
  | 0x1 => some (u.amp.setWidth 16)
  | 0x2 => some u.powerW
  | 0x3 => some (chFreqWord u)
  | 0x4 => some (u.faults.setWidth 16)
  | 0x5 => some (chFlagsWord u)
  | 0x6 => some (u.state.code.setWidth 16)
  | 0x7 => some u.startCount
  | 0x8 => some u.faultCount
  | 0x9 => some (statusWord u)
  | _ => none

/-- Registers 0x0000 to 0x001F; none where the address is unmapped (10_state.md R35). -/
def systemReg (s : State) (addr : Nat) : Option (BitVec 16) :=
  match addr with
  | 0x00 => some (BitVec.ofNat 16 (chanCount (runMask s)))
  | 0x01 => some ((runMask s).setWidth 16)
  | 0x02 => some (s.m.state.code.setWidth 16)
  | 0x03 => some (masterMasksWord s.m)
  | 0x04 => some s.rc.duty
  | 0x05 => some (lastFaultWord s.m.lastFault)
  | 0x06 => some (sysFlagsWord s)
  | 0x10 => some ((BitVec.ofBool s.m.inhibit).setWidth 16)
  | 0x11 => some (s.rc.bcast.setWidth 16)
  | _ => none

/-- The channel block an address lies in and the offset there: channel i at 0x0020 + 0x10*i (20_memory.md R40). -/
def blockOf (addr : Nat) : Option (Chan × Nat) :=
  if h : 0x20 ≤ addr ∧ addr < 0x60 then some (⟨(addr - 0x20) / 16, by omega⟩, (addr - 0x20) % 16) else none

/-- The register read port `RegRead(addr)` (10_state.md R35); none where the address is unmapped. It has no side effect. -/
def regRead (s : State) (addr : BitVec 16) : Option (BitVec 16) :=
  match blockOf addr.toNat with
  | some (i, off) => channelReg (s.unit i) off
  | none => systemReg s addr.toNat

end Sys2Proof.Machine
end

