-- ==== Sys2Proof/Machine/Ops.lean ====
section
/-!
DEFINITION. The named operations the commands share: answering and rejecting (00_scope.md R14), the checks of
30_encoding.md R59, the UC's own operations (40_unit_controller.md R65 to R67), fault latch, fault entry and fault exit
(60_exceptions.md R112, R113, R115), the start gate and fault isolation (42_master_coordinator.md R88, R89).
-/
namespace Sys2Proof.Machine

/-- What one step answers. -/
abbrev Answer := Host.Outcome State Fault Refusal

/-! ### Answers -/

/-- `return ok(v)` in state s (00_scope.md R14). -/
def State.accept (s : State) (v : BitVec 16) : Answer := .next { s with result := some (resultWord v .ok) }

/-- `raise Reject(code)`: result value 0, and no state is written (00_scope.md R14, 60_exceptions.md R108). -/
def State.reject (s : State) (c : ResultCode) : Answer := .next { s with result := some (resultWord 0 c) }

/-! ### The checks every command makes (30_encoding.md R59) -/

/-- A diagnostic opcode exists only when DIAG_PRESENT (R58, 43_diagnostics.md R101). -/
def ifDiag (s : State) (k : Answer) : Answer := if s.cfg.diagPresent then k else s.reject .illegalOpcode

/-- NOT_INIT before the first INIT (R59). -/
def ifInit (s : State) (k : Answer) : Answer := if s.sys.initialized then k else s.reject .notInit

/-- BAD_INDEX for `idx > 3`, else the command on that channel (R59, 41_resource_coordinator.md R78). -/
def onChannel (s : State) (idx : BitVec 4) (k : Chan → Answer) : Answer :=
  match chanOf idx with
  | some i => k i
  | none => s.reject .badIndex

/-- BAD_VALUE unless the operand is valid (R55, R59). -/
def ifValue (s : State) (valid : Bool) (k : Answer) : Answer := if valid then k else s.reject .badValue

/-- BAD_STATE unless the command is valid in the current state (R54, R59). -/
def ifState (s : State) (valid : Bool) (k : Answer) : Answer := if valid then k else s.reject .badState

/-- `StartGate()` (42_master_coordinator.md R88): the code a start is rejected with, if any. -/
def startGate (m : McState) : Option ResultCode :=
  if m.state = .emergencyStop ∨ m.state = .faultIsolation then some .lockedOut
  else if m.inhibit then some .inhibited
  else none

/-- A start path: rejected by the start gate, or k (R88). -/
def ifStartAllowed (s : State) (k : Answer) : Answer :=
  match startGate s.m with
  | some c => s.reject c
  | none => k

/-! ### Access to a unit -/

/-- `u[i]` replaced. -/
def State.setUnit (s : State) (i : Chan) (x : UnitState) : State := { s with u := s.u.set i.val x i.isLt }

/-- An operation of unit i invoked on it (10_state.md R17). -/
def State.onUnit (s : State) (i : Chan) (f : UnitState → UnitState) : State := s.setUnit i (f (s.unit i))

/-! ### The UC's operations -/

/-- `UStartOk(i)` (40_unit_controller.md R65). -/
def uStartOk (u : UnitState) : Bool :=
  decide (u.state = .idle) && decide (u.faults = 0#5) && (decide (u.pending = .none) || decide (u.pending = .start))

/-- `UStart(i)` (R65): nothing is written unless `UStartOk(i)`. -/
def uStart (u : UnitState) : UnitState := if uStartOk u then { u with pending := .start } else u

/-- `UStopOk(i)` (R66). -/
def uStopOk (u : UnitState) : Bool :=
  ((decide (u.state = .starting) || decide (u.state = .running)) &&
      (decide (u.pending = .none) || decide (u.pending = .stop))) ||
    (decide (u.state = .idle) && decide (u.pending = .start))

/-- `UStop(i)` (R66): nothing is written unless `UStopOk(i)`; in IDLE the stop cancels the start not yet committed. -/
def uStop (u : UnitState) : UnitState :=
  if uStopOk u then { u with pending := if u.state = .idle then .none else .stop } else u

/-- `UEstop(i, now)` (R67, 90_conflicts.md C4). -/
def uEstop (now : Time) (u : UnitState) : UnitState :=
  { u with
    startOut := false
    resetOut := false
    pulse := false
    running := false
    pending := .none
    state := if u.state = .fault ∨ u.state = .unknown then .fault else .idle
    tState := now }

/-- `Latch(i, new)` (60_exceptions.md R112). -/
def latch (new : FaultMask) (u : UnitState) : UnitState :=
  { u with faults := u.faults ||| new, faultCount := u.faultCount + BitVec.ofNat 16 (classCount new) }

/-- Fault entry `EnterFault(i, now)` (60_exceptions.md R113), the analogue of taking an exception: the latched mask is the
record of the cause, nothing else is saved. -/
def enterFault (now : Time) (u : UnitState) : UnitState :=
  { u with
    state := .fault
    startOut := false
    resetOut := false
    pulse := false
    running := false
    pending := .none
    tState := now }

/-- The precondition RESET re-checks at its commit and at the pulse's end: exactly OVL latched, its debounced level low
(40_unit_controller.md R76). -/
def ovlResettable (u : UnitState) : Bool :=
  decide (u.faults = FaultClass.bit .ovl) && !(u.debOf .ovl).level

/-- Every latched class has its debounced level low (40_unit_controller.md R72, R76). -/
def latchedClear (u : UnitState) : Bool :=
  FaultClass.all.all fun k => !(hasClass u.faults k) || !(u.debOf k).level

/-- The return to IDLE from FAULT (40_unit_controller.md R76). -/
def leaveFault (now : Time) (u : UnitState) : UnitState := { u with state := .idle, tState := now }

/-- Fault exit, the analogue of the return from an exception: the FAULT case of the unit update (40_unit_controller.md R76,
60_exceptions.md R115). -/
def faultExit (cfg : Config) (now : Time) (u : UnitState) : UnitState :=
  if u.pulse then
    if cfg.tResetPulse ≤ elapsed now u.tState then
      let v := { u with pulse := false, resetOut := false }
      if ovlResettable v then leaveFault now { v with faults := 0 } else v
    else u
  else match u.pending with
    | .reset =>
      let v := { u with pending := .none }
      if ovlResettable v then { v with pulse := true, resetOut := true, tState := now } else v
    | .clear =>
      let v := { u with pending := .none }
      if latchedClear v then
        let w := { v with faults := v.faults &&& FaultClass.bit .ovl }
        if w.faults = 0#5 then leaveFault now w else w
      else v
    | .none => u
    | .start => u
    | .stop => u

/-! ### The MC's operations -/

/-- `m.faulted[c] <- 1` if a channel is given (42_master_coordinator.md R89). -/
def markFaulted (faulted : ChanMask) : Option Chan → ChanMask
  | some i => faulted ||| chanBit i
  | none => faulted

/-- The channel `last_fault` names: c, or 0 for none (42_master_coordinator.md R89). -/
def faultChannel : Option Chan → BitVec 2
  | some i => BitVec.ofNat 2 i.val
  | none => 0

/-- `Isolate(c, f, to)` (42_master_coordinator.md R89). -/
def isolate (c : Option Chan) (f : FaultMask) (timeout : Bool) (s : State) : State :=
  let m : McState :=
    { s.m with
      state := .faultIsolation
      faulted := markFaulted s.m.faulted c
      lastFault := ⟨true, timeout, faultChannel c, f⟩
      active := 0
      confirmed := 0
      stopWait := 0 }
  let stopped := chans.foldl (fun s j => s.onUnit j uStop) s
  { stopped with m := m }

/-- The body of COORD_STOP from the line `added <- 0` on (42_master_coordinator.md R92, R94). -/
def stopChannels (msk : ChanMask) (s : State) : State :=
  let s1 := chans.foldl (fun s i => if hasChan msk i then s.onUnit i uStop else s) s
  let added := chanSet fun i => hasChan msk i && !(hasChan s.m.stopWait i) &&
    (decide ((s1.unit i).state = .starting) || decide ((s1.unit i).state = .running) || decide ((s1.unit i).state = .stopping))
  { s1 with m := { s1.m with
      stopWait := s1.m.stopWait ||| added
      active := s1.m.active &&& ~~~msk
      confirmed := s1.m.confirmed &&& ~~~msk
      tStopSeq := if added ≠ 0#4 then s1.now else s1.m.tStopSeq } }

/-- A setpoint change: `u[i].amp <- a`, and `rc.order` with i moved to the front (40_unit_controller.md R70). -/
def setSetpoint (a : BitVec 8) (s : State) (i : Chan) : State :=
  let s1 := s.onUnit i fun u => { u with amp := a }
  { s1 with rc := { s1.rc with order := i :: s1.rc.order.filter (fun j => j ≠ i) } }

end Sys2Proof.Machine
end

