-- ==== Sys2Proof/Machine/Diagnostics.lean ====
section
/-!
DEFINITION. The diagnostic commands of 43_diagnostics.md, present only when DIAG_PRESENT (R101).
-/
namespace Sys2Proof.Machine

/-- SET_SIM (R102). -/
def execSetSim (idx : BitVec 4) (dat : BitVec 16) (s : State) : Answer :=
  ifDiag s <| ifInit s <| onChannel s idx fun i => ifValue s (bool1Valid dat) <|
    (s.onUnit i fun u => { u with sim := bool1 dat }).accept 0

/-- INJECT_FAULT (R103). -/
def execInjectFault (idx : BitVec 4) (dat : BitVec 16) (s : State) : Answer :=
  ifDiag s <| ifInit s <| onChannel s idx fun i => ifValue s (fmask5Valid dat) <|
    (s.onUnit i fun u => { u with inj := u.inj ||| fmask5 dat }).accept 0

/-- The states the start gate guards when forced: STARTING, RUNNING, STOPPING (R104). -/
def forcedRunning (x : UState) : Bool := decide (x = .starting) || decide (x = .running) || decide (x = .stopping)

/-- The unit forced into state x at `now` (R104). -/
def forceUnit (now : Time) (x : UState) (u : UnitState) : UnitState :=
  { u with
    state := x
    pending := .none
    pulse := false
    resetOut := false
    startOut := decide (x = .starting) || decide (x = .running)
    running := decide (x = .running) || decide (x = .stopping)
    tState := now }

/-- FORCE_STATE (R104). -/
def execForceState (idx : BitVec 4) (dat : BitVec 16) (s : State) : Answer :=
  ifDiag s <| ifInit s <| onChannel s idx fun i => ifValue s (state3Valid dat) <|
    let x := UState.ofOperand dat
    let forced := (s.onUnit i (forceUnit s.now x)).accept 0
    if forcedRunning x then ifStartAllowed s forced else forced

end Sys2Proof.Machine
end

