-- ==== Sys2Proof/Machine/MasterCoordinator.lean ====
section
/-!
DEFINITION. The master commands of 42_master_coordinator.md section 3.
-/
namespace Sys2Proof.Machine

/-- COORD_START (R90): all or nothing. -/
def execCoordStart (msk : BitVec 4) (s : State) : Answer :=
  ifInit s <| ifValue s (chanSetValid msk) <| ifStartAllowed s <| ifState s (decide (s.m.state = .idle)) <|
    ifState s (chans.all fun i => !(hasChan msk i) || uStartOk (s.unit i)) <|
      let t := chans.foldl (fun s i => if hasChan msk i then s.onUnit i uStart else s) s
      { t with m := { t.m with
          state := .coordinatedStart
          active := msk
          confirmed := 0
          tStartSeq := t.now } }.accept 0

/-- CONFIRM (R91). -/
def execConfirm (idx : BitVec 4) (s : State) : Answer :=
  ifInit s <| onChannel s idx fun i =>
    ifState s (decide (s.m.state = .coordinatedStart) && hasChan s.m.active i && decide ((s.unit i).state = .running)) <|
      { s with m := { s.m with confirmed := s.m.confirmed ||| chanBit i } }.accept 0

/-- COORD_STOP (R92). -/
def execCoordStop (msk : BitVec 4) (s : State) : Answer :=
  ifInit s <| ifValue s (chanSetValid msk) <|
    ifState s (decide (s.m.state = .running) || decide (s.m.state = .coordinatedStart)) <| (stopChannels msk s).accept 0

/-- UNIT_START (R93). -/
def execUnitStart (idx : BitVec 4) (s : State) : Answer :=
  ifInit s <| onChannel s idx fun i => ifStartAllowed s <| ifState s (decide (s.m.state = .running)) <|
    ifState s (uStartOk (s.unit i)) <|
      let t := s.onUnit i uStart
      { t with m := { t.m with active := t.m.active ||| chanBit i } }.accept 0

/-- UNIT_STOP (R94): the body of COORD_STOP on one channel. -/
def execUnitStop (idx : BitVec 4) (s : State) : Answer :=
  ifInit s <| onChannel s idx fun i => ifState s (decide (s.m.state = .running)) <| (stopChannels (chanBit i) s).accept 0

/-- REPORT_FAULT (R95): in EMERGENCY_STOP it is recorded only. -/
def execReportFault (idx : BitVec 4) (dat : BitVec 16) (s : State) : Answer :=
  ifInit s <| onChannel s idx fun i => ifValue s (fmask5Valid dat) <|
    if s.m.state = .emergencyStop then
      { s with m := { s.m with
          faulted := s.m.faulted ||| chanBit i
          lastFault := ⟨true, false, BitVec.ofNat 2 i.val, fmask5 dat⟩ } }.accept 0
    else (isolate (some i) (fmask5 dat) false s).accept 0

/-- `RcEstop()` (41_resource_coordinator.md R87). -/
def rcEstop (s : State) : State := { s with rc := { s.rc with duty := 0 } }

/-- ESTOP (R96): complete within its own transaction. -/
def execEstop (s : State) : Answer :=
  ifInit s <|
    let t := rcEstop (chans.foldl (fun s i => s.onUnit i (uEstop s.now)) s)
    { t with m := { t.m with state := .emergencyStop, active := 0, confirmed := 0, stopWait := 0 } }.accept 0

/-- SET_INHIBIT (R97). -/
def execSetInhibit (dat : BitVec 16) (s : State) : Answer :=
  ifInit s <| ifValue s (bool1Valid dat) <| { s with m := { s.m with inhibit := bool1 dat } }.accept 0

/-- The condition of REARM on one unit (R98). -/
def rearmable (u : UnitState) : Bool :=
  decide (u.state = .idle) && decide (u.faults = 0#5) && decide (u.pending = .none)

/-- REARM (R98). -/
def execRearm (s : State) : Answer :=
  ifInit s <| ifState s (decide (s.m.state = .faultIsolation)) <| ifState s (chans.all fun i => rearmable (s.unit i)) <|
    { s with m := { s.m with state := .idle, faulted := 0 } }.accept 0

end Sys2Proof.Machine
end

