-- ==== Sys2Proof/Machine/Update.lean ====
section
/-!
DEFINITION. The parts of a control cycle (41_resource_coordinator.md R82): the communication condition (R81), telemetry
(40_unit_controller.md R75), fault detection (60_exceptions.md R110 to R112), the unit update (R76), the arbiter (R85, R86)
and the master update (42_master_coordinator.md R99).
-/
namespace Sys2Proof.Machine

/-- `elapsed(now, t) >= T` (10_state.md R32). -/
def timerDone (now t limit : Time) : Bool := decide (limit ≤ elapsed now t)

/-! ### The unit update -/

/-- POWER_FROM_RAW (00_scope.md R9), read from its table (log entry 5). -/
def powerFromRaw (cfg : Config) (raw : BitVec 16) : BitVec 16 := (cfg.powerTable.lookup raw).getD raw

/-- `(pulse_count * FREQ_DIVIDER * 1000) / window_ms`, floor; the product never wraps (40_unit_controller.md R75). -/
def freqOf (smp : ChannelSample) : BitVec 32 :=
  BitVec.ofNat 32 (smp.pulseCount.toNat * Config.freqDivider * 1000 / smp.windowMs.toNat)

/-- `Telemetry(i, s)` (40_unit_controller.md R75). -/
def telemetry (cfg : Config) (commLost : Bool) (smp : ChannelSample) (u : UnitState) : UnitState :=
  { u with
    powerW := powerFromRaw cfg smp.powerRaw
    freqHz := if smp.windowMs ≠ 0#16 then freqOf smp else u.freqHz
    locked := smp.lock
    commOk := !commLost }

/-- `Raw(k, i, s, s0)` (60_exceptions.md R110). -/
def rawCondition (k : FaultClass) (commLost : Bool) (smp : ChannelSample) (s0 : UState) : Bool :=
  match k with
  | .ovl => smp.overload
  | .ful => decide (s0 = .running) && !smp.lock
  | .comm => commLost
  | .hw => smp.hwFault
  | .wd => smp.wdFault

/-- `T_DEB[k]`, the debounce window of a class; that of COMM is 0 (60_exceptions.md R109). -/
def debWindow (cfg : Config) : FaultClass → Time
  | .ovl => cfg.tDebOvl
  | .ful => cfg.tDebFul
  | .comm => 0
  | .hw => cfg.tDebHw
  | .wd => cfg.tDebWd

/-- `Debounce(d, r, now, T)`: the new record (60_exceptions.md R111). -/
def debounce (d : Debounce) (r : Bool) (now limit : Time) : Debounce :=
  if r = d.level then { d with pend := false }
  else
    let d1 := if d.pend then d else { d with pend := true, since := now }
    if timerDone now d1.since limit then { d1 with level := r, pend := false } else d1

/-- The `rise` Debounce returns: `(not old) and d.level` (60_exceptions.md R111). -/
def debounceRise (old new : Debounce) : Bool := !old.level && new.level

/-- The five debounce records after this update's raw conditions (40_unit_controller.md R76). -/
def debounceAll (cfg : Config) (commLost : Bool) (now : Time) (smp : ChannelSample) (s0 : UState)
    (deb : Vector Debounce 5) : Vector Debounce 5 :=
  let next (k : FaultClass) : Debounce :=
    debounce (debAt deb k) (rawCondition k commLost smp s0) now (debWindow cfg k)
  #v[next .ovl, next .ful, next .comm, next .hw, next .wd]

/-- The classes newly latched: a rise or an injection, of a class not latched yet (40_unit_controller.md R76). -/
def newFaults (u : UnitState) (deb : Vector Debounce 5) : FaultMask :=
  faultSet fun k => (debounceRise (u.debOf k) (debAt deb k) || hasClass u.inj k) && !(hasClass u.faults k)

/-- Debounce of every class, latch, and the injected set cleared (40_unit_controller.md R76). -/
def detect (cfg : Config) (commLost : Bool) (now : Time) (smp : ChannelSample) (s0 : UState) (u : UnitState) : UnitState :=
  let deb := debounceAll cfg commLost now smp s0 u.deb
  { latch (newFaults u deb) u with deb := deb, inj := 0 }

/-- STARTING or RUNNING with a STOP pending: to STOPPING, `start_out` off; `running` is kept (40_unit_controller.md R76). -/
def commitStop (now : Time) (u : UnitState) : UnitState :=
  { u with pending := .none, state := .stopping, startOut := false, tState := now }

/-- The case of the unit update on the state at its start, when no fault entry is due (40_unit_controller.md R76). -/
def commit (cfg : Config) (now : Time) (u : UnitState) : UnitState :=
  match u.state with
  | .fault => faultExit cfg now u
  | .idle =>
    if u.pending = .start then
      { u with pending := .none, state := .starting, startOut := true, tState := now, startCount := u.startCount + 1 }
    else u
  | .starting =>
    if u.pending = .stop then commitStop now u
    else if timerDone now u.tState cfg.tStartDelay then { u with state := .running, running := true }
    else u
  | .running => if u.pending = .stop then commitStop now u else u
  | .stopping =>
    if timerDone now u.tState cfg.tStopSettle then { u with state := .idle, running := false } else u
  | .unknown => u

/-- `UnitUpdate(i, now, in)`, the UC's update() (40_unit_controller.md R76). `phys` and `sim` are the channel's two
samples. -/
def unitUpdate (cfg : Config) (commLost : Bool) (now : Time) (phys sim : ChannelSample) (u : UnitState) : UnitState :=
  let smp := if u.sim then sim else phys
  let v := detect cfg commLost now smp u.state (telemetry cfg commLost smp u)
  if u.state = .unknown ∨ (v.faults ≠ 0#5 ∧ u.state ≠ .fault) then enterFault now v else commit cfg now v

/-! ### The Resource Coordinator's update -/

/-- The communication-loss condition (41_resource_coordinator.md R81). -/
def commCondition (s : State) : State :=
  let last := if s.inp.commSeen then s.now else s.sys.lastComm
  { s with sys := { s.sys with lastComm := last, commLost := timerDone s.now last s.cfg.tCommTimeout } }

/-- Unit i's update on the samples of the transaction (41_resource_coordinator.md R82). -/
def updateUnit (s : State) (i : Chan) : State :=
  s.onUnit i (unitUpdate s.cfg s.sys.commLost s.now (chanAt s.inp.phys i) (chanAt s.inp.sim i))

/-- `Duty(a)` (41_resource_coordinator.md R85), on exact integers; the clamp keeps it total. -/
def dutyOf (cfg : Config) (a : Nat) : BitVec 16 :=
  BitVec.ofNat 16 (min (a * cfg.dutyMax.toNat / 100) cfg.dutyMax.toNat)

/-- The amplitude of channel i. -/
def ampOf (s : State) (i : Chan) : Nat := (s.unit i).amp.toNat

/-- The running channels, `R` (41_resource_coordinator.md R86). -/
def runningChans (s : State) : List Chan := chans.filter fun i => (s.unit i).running

/-- `Arbitrate()` (41_resource_coordinator.md R86). The sum of AVERAGE is exact: DEDUCED, log entry 9. Where `rc.order` is
no permutation, MOST_RECENT finds no running channel and the value is 0: DESIGN CHOICE, log entry 10. -/
def arbitrate (s : State) : BitVec 16 :=
  let r := runningChans s
  if r = [] then 0
  else match s.cfg.arbPolicy with
    | .mostRecent => match s.rc.order.find? (fun j => (s.unit j).running) with
      | some j => dutyOf s.cfg (ampOf s j)
      | none => 0
    | .maximum => dutyOf s.cfg ((r.map (ampOf s)).foldl max 0)
    | .average => dutyOf s.cfg ((r.map (ampOf s)).sum / r.length)

/-- The RC's update(): the units in index order, then the actuator (41_resource_coordinator.md R82). -/
def rcUpdate (s : State) : State :=
  let s1 := chans.foldl updateUnit s
  { s1 with rc := { s1.rc with duty := arbitrate s1 } }

/-! ### The Master Coordinator's update -/

/-- Fault polling of one unit (42_master_coordinator.md R99). -/
def pollFault (s : State) (i : Chan) : State :=
  if (s.unit i).state = .fault ∧ hasChan s.m.faulted i = false then isolate (some i) (s.unit i).faults false s else s

/-- Confirmation and stop polling (42_master_coordinator.md R99). -/
def pollProgress (s : State) : McState :=
  { s.m with
    confirmed := s.m.confirmed ||| chanSet fun i => hasChan s.m.active i && decide ((s.unit i).state = .running)
    stopWait := s.m.stopWait &&& ~~~(chanSet fun i => decide ((s.unit i).state = .idle)) }

/-- The sequence is over: nothing active, nothing left to stop (42_master_coordinator.md R99). -/
def sequenceDone (m : McState) : Bool :=
  (decide (m.state = .coordinatedStart) || decide (m.state = .running)) && decide (m.active = 0#4) && decide (m.stopWait = 0#4)

/-- A coordinated start or a stop sequence has run out of time (42_master_coordinator.md R99). -/
def sequenceTimeout (cfg : Config) (now : Time) (m : McState) : Bool :=
  (decide (m.state = .coordinatedStart) && timerDone now m.tStartSeq cfg.tSeqTimeout) ||
    (decide (m.stopWait ≠ 0#4) && timerDone now m.tStopSeq cfg.tSeqTimeout)

/-- The completion of a coordinated start: every active channel is confirmed (42_master_coordinator.md R99, line for line, so
also with nothing active; the table of R100, derived from the rules, is narrower there: DEDUCED, log entry 13). -/
def completeStart (m : McState) : McState :=
  if m.state = .coordinatedStart ∧ m.confirmed = m.active then { m with state := .running } else m

/-- `MasterUpdate(now)`, the MC's update() (42_master_coordinator.md R99). -/
def masterUpdate (s : State) : State :=
  if s.m.state = .emergencyStop then s
  else
    let s1 := chans.foldl pollFault s
    if s1.m.state = .faultIsolation then s1
    else
      let m2 := pollProgress s1
      if sequenceDone m2 then { s1 with m := { m2 with state := .idle } }
      else
        let s2 := { s1 with m := completeStart m2 }
        if sequenceTimeout s2.cfg s2.now s2.m then isolate none 0 true s2 else s2

/-- The state after one control cycle: comm condition, RC update, MC update (41_resource_coordinator.md R82). -/
def controlCycle (s : State) : State := masterUpdate (rcUpdate (commCondition s))

end Sys2Proof.Machine
end

