-- ==== Sys2Proof/Machine/ResourceCoordinator.lean ====
section
/-!
DEFINITION. The system commands and the amplitude broadcast (41_resource_coordinator.md section 2).
-/
namespace Sys2Proof.Machine

/-- NOP (R79). -/
def execNop (s : State) : Answer := s.accept 0

/-- Unit i after INIT at `now0` (10_state.md R37). -/
def unitAfterInit (now0 : Time) (i : Chan) : UnitState :=
  { UnitState.afterReset i with state := .idle, commOk := true, tState := now0 }

/-- The block after INIT at `now0` (10_state.md R37); the parameters and the ports are not the block's fields. -/
def afterInit (now0 : Time) (s : State) : State :=
  { s with
    sys := ⟨true, now0, false⟩
    u := perChan (unitAfterInit now0)
    rc := .cleared
    m := { McState.afterReset with tStartSeq := now0, tStopSeq := now0 } }

/-- INIT (R80): valid in every state. -/
def execInit (s : State) : Answer := (afterInit s.now s).accept 0

/-- TICK (R82). -/
def execTick (s : State) : Answer :=
  ifInit s <| let t := controlCycle s
    t.accept (packedStates t)

/-- READ_REG (R83): allowed before INIT. -/
def execReadReg (dat : BitVec 16) (s : State) : Answer :=
  match regRead s dat with
  | some v => s.accept v
  | none => s.reject .badValue

/-- AMP_BCAST (R84): four setpoint changes in index order. -/
def execAmpBcast (dat : BitVec 16) (s : State) : Answer :=
  ifInit s <|
    let a := amp16 dat
    let t := chans.foldl (setSetpoint a) s
    { t with rc := { t.rc with bcast := a } }.accept 0

end Sys2Proof.Machine
end

