-- ==== Sys2Proof/Machine/UnitController.lean ====
section
/-!
DEFINITION. The unit commands of 40_unit_controller.md section 2.
-/
namespace Sys2Proof.Machine

/-- START (R68). -/
def execStart (idx : BitVec 4) (s : State) : Answer :=
  ifInit s <| onChannel s idx fun i => ifStartAllowed s <| ifState s (uStartOk (s.unit i)) <|
    (s.onUnit i uStart).accept 0

/-- STOP (R69): never refused by the inhibit or by the MC state. -/
def execStop (idx : BitVec 4) (s : State) : Answer :=
  ifInit s <| onChannel s idx fun i => ifState s (uStopOk (s.unit i)) <| (s.onUnit i uStop).accept 0

/-- SET_AMP (R70). -/
def execSetAmp (idx : BitVec 4) (dat : BitVec 16) (s : State) : Answer :=
  ifInit s <| onChannel s idx fun i => (setSetpoint (amp16 dat) s i).accept 0

/-- The state condition of RESET_OVL (R71). -/
def resetOvlOk (u : UnitState) : Bool :=
  decide (u.state = .fault) && ovlResettable u && !u.pulse && (decide (u.pending = .none) || decide (u.pending = .reset))

/-- RESET_OVL (R71). -/
def execResetOvl (idx : BitVec 4) (s : State) : Answer :=
  ifInit s <| onChannel s idx fun i => ifState s (resetOvlOk (s.unit i)) <|
    (s.onUnit i fun u => { u with pending := .reset }).accept 0

/-- The state condition of CLEAR_FAULTS (R72). -/
def clearFaultsOk (u : UnitState) : Bool :=
  decide (u.state = .fault) && !u.pulse && (decide (u.pending = .none) || decide (u.pending = .clear)) &&
    (decide (u.faults = 0#5) || decide (u.faults &&& ~~~(FaultClass.bit .ovl) ≠ 0#5)) && latchedClear u

/-- CLEAR_FAULTS (R72). -/
def execClearFaults (idx : BitVec 4) (s : State) : Answer :=
  ifInit s <| onChannel s idx fun i => ifState s (clearFaultsOk (s.unit i)) <|
    (s.onUnit i fun u => { u with pending := .clear }).accept 0

/-- GET_STATUS (R73): allowed before INIT. -/
def execGetStatus (idx : BitVec 4) (s : State) : Answer :=
  onChannel s idx fun i => s.accept (statusWord (s.unit i))

/-- IS_SAFE (R74): allowed before INIT. -/
def execIsSafe (idx : BitVec 4) (s : State) : Answer :=
  onChannel s idx fun i => s.accept ((BitVec.ofBool (safe (s.unit i))).setWidth 16)

end Sys2Proof.Machine
end

