-- ==== Sys2Proof/Machine/Dispatch.lean ====
section
/-!
DEFINITION. One arm per command: the direct call of its meaning.
-/
namespace Sys2Proof.Machine

def exec (i : Instr) (s : State) : Host.Outcome State Fault Refusal :=
  match i with
  | .nop => Sys2Proof.Machine.execNop s
  | .init => Sys2Proof.Machine.execInit s
  | .tick => Sys2Proof.Machine.execTick s
  | .readReg dat => Sys2Proof.Machine.execReadReg dat s
  | .start idx => Sys2Proof.Machine.execStart idx s
  | .stop idx => Sys2Proof.Machine.execStop idx s
  | .setAmp idx dat => Sys2Proof.Machine.execSetAmp idx dat s
  | .resetOvl idx => Sys2Proof.Machine.execResetOvl idx s
  | .clearFaults idx => Sys2Proof.Machine.execClearFaults idx s
  | .getStatus idx => Sys2Proof.Machine.execGetStatus idx s
  | .isSafe idx => Sys2Proof.Machine.execIsSafe idx s
  | .ampBcast dat => Sys2Proof.Machine.execAmpBcast dat s
  | .coordStart msk => Sys2Proof.Machine.execCoordStart msk s
  | .confirm idx => Sys2Proof.Machine.execConfirm idx s
  | .coordStop msk => Sys2Proof.Machine.execCoordStop msk s
  | .unitStart idx => Sys2Proof.Machine.execUnitStart idx s
  | .unitStop idx => Sys2Proof.Machine.execUnitStop idx s
  | .reportFault idx dat => Sys2Proof.Machine.execReportFault idx dat s
  | .estop => Sys2Proof.Machine.execEstop s
  | .setInhibit dat => Sys2Proof.Machine.execSetInhibit dat s
  | .rearm => Sys2Proof.Machine.execRearm s
  | .setSim idx dat => Sys2Proof.Machine.execSetSim idx dat s
  | .injectFault idx dat => Sys2Proof.Machine.execInjectFault idx dat s
  | .forceState idx dat => Sys2Proof.Machine.execForceState idx dat s

end Sys2Proof.Machine
end

