-- ==== Sys2Proof/Machine/Transaction.lean ====
section
/-!
DEFINITION. What the block does with one transaction (10_state.md R31): a command word is decoded and run (30_encoding.md R59),
a Reset restarts the block (70_reset_and_hazards.md R125).
-/
namespace Sys2Proof.Machine

/-- The command word of a decoded or rejected word run in s; R58 and R57 reject with no state written. -/
def runDecoded (d : Decoded) (s : State) : Answer :=
  match d with
  | .instr i => exec i s
  | .illegalOpcode => s.reject .illegalOpcode
  | .reservedField => s.reject .reservedField

/-- The state in which `Cmd(word, now, in)` runs: its timestamp and its sample at the ports, the transactions after it still
to come. -/
def present (s : State) (now : Time) (inp : Sample) (rest : List Transaction) : State :=
  { s with port := rest, now := now, inp := inp }

/-- One transaction, `rest` being those the host has presented after it. A configuration outside 00_scope.md R10 is refused
(93 I14). Safe, log entry 7. -/
def runTransaction (t : Transaction) (rest : List Transaction) (s : State) : Answer :=
  if s.cfg.legal then
    match t with
    | .cmd w now inp => runDecoded (decode s.cfg.diagPresent w) (present s now inp rest)
    | .reset => .next (State.afterReset s.cfg rest)
  else .refused .illegalConfig

/-- One step: the first presented transaction; with none presented the block holds its state and outputs
(60_exceptions.md R124, 93 I11). DESIGN CHOICE, safe, log entry 1. -/
def runPort (s : State) : Answer :=
  match s.port with
  | [] => .next s
  | t :: rest => runTransaction t rest s

/-- The same state with one more command before all others, at the timestamp and with the sample the ports hold. -/
def presentWord (s : State) (w : Word) : State := { s with port := .cmd w s.now s.inp :: s.port }

end Sys2Proof.Machine
end

