-- ==== Sys2Proof/Machine/Step.lean ====
section
/-!
DEFINITION. The step, and the placing of one command where the next step takes it.
-/
namespace Sys2Proof.Machine

/-- One transaction, run to completion (10_state.md R31). -/
def step (s : State) : Host.Outcome State Fault Refusal := runPort s

/-- s with the command word of a table row presented first, so that the next step runs it. Log entry 1 says how a program
comes to run. -/
def State.withFetchWord (s : State) (nbits w : Nat) : State := presentWord s (tableWord nbits w)

end Sys2Proof.Machine
end

