-- ==== Sys2Proof/Machine/Bus.lean ====
section
/-!
DEFINITION. The pseudo-instructions of 30_encoding.md R61, the bus layer's mapping of register reads and writes onto commands,
and the assembler syntax of R60 over operand tokens. Neither is a port of the block (10_state.md R35: "Writes are not a port of
the block"), so no step runs them: each yields a command the host may present.
-/
namespace Sys2Proof.Machine

/-- The pseudo-instructions of R61. -/
inductive Pseudo where
  | rd (addr : BitVec 16)
  | wr (addr v : BitVec 16)
  | startAll
  | stopAll
  | clearInhibit
  deriving DecidableEq, Repr

/-- What a pseudo-instruction expands to: one command, or an immediate BAD_VALUE result with no command sent (R61). -/
inductive Expansion where
  | command (i : Instr)
  | badValue
  deriving DecidableEq, Repr

/-- `WR CHi_CMD, v`: one command bit at a time; 0 is NOP (R61). -/
def writeChCmd (i : Chan) (v : BitVec 16) : Expansion :=
  let idx := BitVec.ofNat 4 i.val
  match v.toNat with
  | 0x0 => .command .nop
  | 0x1 => .command (.start idx)
  | 0x2 => .command (.stop idx)
  | 0x4 => .command (.resetOvl idx)
  | 0x8 => .command (.clearFaults idx)
  | _ => .badValue

/-- `WR addr, v`: the command a bus write maps to; a read-only or unmapped register gives BAD_VALUE (R61). -/
def writeReg (addr v : BitVec 16) : Expansion :=
  match blockOf addr.toNat with
  | some (i, 0x0) => writeChCmd i v
  | some (i, 0x1) => .command (.setAmp (BitVec.ofNat 4 i.val) v)
  | some _ => .badValue
  | none =>
    if addr = 0x0010#16 then .command (.setInhibit v)
    else if addr = 0x0011#16 then .command (.ampBcast v)
    else .badValue

/-- The expansion of each pseudo-instruction (R61). -/
def Pseudo.expand : Pseudo → Expansion
  | .rd addr => .command (.readReg addr)
  | .wr addr v => writeReg addr v
  | .startAll => .command (.coordStart 0xF)
  | .stopAll => .command (.coordStop 0xF)
  | .clearInhibit => .command (.setInhibit 0)

/-! ### Assembler syntax (R60) -/

/-- An operand of an assembler line, already split into tokens (R60). -/
inductive AsmOperand where
  /-- A decimal or hex number. -/
  | num (v : Int)
  /-- A channel set written out by its members. -/
  | set (cs : List Nat)
  /-- A register name or a UState name. -/
  | name (n : String)
  /-- Fault class names joined by a bar. -/
  | classes (ns : List String)
  deriving DecidableEq, Repr

/-- The registers of 10_state.md R35 outside the channel blocks, by name. -/
def systemRegNames : List (String × Nat) := [
  ("SYS_RUN_COUNT", 0x00), ("SYS_RUN_MASK", 0x01), ("SYS_MASTER_STATE", 0x02), ("SYS_MASTER_MASKS", 0x03),
  ("SYS_ACTUATOR", 0x04), ("SYS_LAST_FAULT", 0x05), ("SYS_FLAGS", 0x06), ("CTL_START_INHIBIT", 0x10), ("CTL_AMP_BCAST", 0x11)]

/-- The registers of a channel block, by the part of their name after `CHi_` (R35). -/
def channelRegNames : List (String × Nat) := [
  ("CMD", 0), ("AMPLITUDE", 1), ("POWER", 2), ("FREQ", 3), ("FAULTS", 4), ("FLAGS", 5), ("STATE", 6), ("START_COUNT", 7),
  ("FAULT_COUNT", 8), ("STATUS", 9)]

/-- `CHi_` with its channel (R60). -/
def channelPrefixes : List (String × Nat) := [("CH0_", 0), ("CH1_", 1), ("CH2_", 2), ("CH3_", 3)]

/-- Every register name of R35 with its address. -/
def regNames : List (String × Nat) :=
  systemRegNames ++ channelPrefixes.flatMap fun p => channelRegNames.map fun r => (p.1 ++ r.1, 0x20 + 0x10 * p.2 + r.2)

/-- UState names with their codes (10_state.md R22). -/
def stateNames : List (String × Nat) :=
  [("IDLE", 0), ("STARTING", 1), ("RUNNING", 2), ("STOPPING", 3), ("FAULT", 4), ("UNKNOWN", 5)]

/-- Fault class names with their bits (10_state.md R23). -/
def classNames : List (String × Nat) := [("OVL", 0x01), ("FUL", 0x02), ("COMM", 0x04), ("HW", 0x08), ("WD", 0x10)]

/-- A number that fits in an unsigned field. -/
def unsignedField (w : Nat) (v : Int) : Option (BitVec w) :=
  if 0 ≤ v ∧ v < 2 ^ w then some (BitVec.ofInt w v) else none

/-- A channel operand: a decimal 0 to 3 (R60). -/
def asmChan : AsmOperand → Option (BitVec 4)
  | .num v => if 0 ≤ v ∧ v ≤ 3 then some (BitVec.ofInt 4 v) else none
  | .set _ | .name _ | .classes _ => none

/-- A mask operand: a set or a value (R60). -/
def asmMask : AsmOperand → Option (BitVec 4)
  | .num v => unsignedField 4 v
  | .set cs => if cs.all (· < 4) then some (cs.foldl (fun m c => m ||| (1#4 <<< c)) 0) else none
  | .name _ | .classes _ => none

/-- An amplitude: a signed decimal (R60). -/
def asmAmp : AsmOperand → Option (BitVec 16)
  | .num v => if -32768 ≤ v ∧ v ≤ 32767 then some (BitVec.ofInt 16 v) else none
  | .set _ | .name _ | .classes _ => none

/-- A register address: a value or a register name (R60). -/
def asmAddr : AsmOperand → Option (BitVec 16)
  | .num v => unsignedField 16 v
  | .name n => (regNames.lookup n).map (BitVec.ofNat 16)
  | .set _ | .classes _ => none

/-- A fault mask: a value or class names (R60). -/
def asmFaults : AsmOperand → Option (BitVec 16)
  | .num v => unsignedField 16 v
  | .name n => (classNames.lookup n).map (BitVec.ofNat 16)
  | .classes ns => (ns.mapM fun n => classNames.lookup n).map fun l => l.foldl (fun m b => m ||| BitVec.ofNat 16 b) 0
  | .set _ => none

/-- A state: a number or a UState name (R60). -/
def asmState : AsmOperand → Option (BitVec 16)
  | .num v => unsignedField 16 v
  | .name n => (stateNames.lookup n).map (BitVec.ofNat 16)
  | .set _ | .classes _ => none

/-- A bool: 0 or 1 (R60). -/
def asmBool : AsmOperand → Option (BitVec 16)
  | .num v => if v = 0 ∨ v = 1 then some (BitVec.ofInt 16 v) else none
  | .set _ | .name _ | .classes _ => none

/-- The command of an assembler line `MNEMONIC [operand, ...]`, operands in the order of R60; none where the line is not one
of the syntax. -/
def assemble (mnemonic : String) (ops : List AsmOperand) : Option Instr :=
  match mnemonic, ops with
  | "NOP", [] => some .nop
  | "INIT", [] => some .init
  | "TICK", [] => some .tick
  | "ESTOP", [] => some .estop
  | "REARM", [] => some .rearm
  | "READ_REG", [a] => (asmAddr a).map .readReg
  | "AMP_BCAST", [a] => (asmAmp a).map .ampBcast
  | "SET_INHIBIT", [b] => (asmBool b).map .setInhibit
  | "COORD_START", [m] => (asmMask m).map .coordStart
  | "COORD_STOP", [m] => (asmMask m).map .coordStop
  | "START", [c] => (asmChan c).map .start
  | "STOP", [c] => (asmChan c).map .stop
  | "RESET_OVL", [c] => (asmChan c).map .resetOvl
  | "CLEAR_FAULTS", [c] => (asmChan c).map .clearFaults
  | "GET_STATUS", [c] => (asmChan c).map .getStatus
  | "IS_SAFE", [c] => (asmChan c).map .isSafe
  | "CONFIRM", [c] => (asmChan c).map .confirm
  | "UNIT_START", [c] => (asmChan c).map .unitStart
  | "UNIT_STOP", [c] => (asmChan c).map .unitStop
  | "SET_AMP", [c, a] => (asmChan c).bind fun i => (asmAmp a).map (.setAmp i)
  | "REPORT_FAULT", [c, f] => (asmChan c).bind fun i => (asmFaults f).map (.reportFault i)
  | "SET_SIM", [c, b] => (asmChan c).bind fun i => (asmBool b).map (.setSim i)
  | "INJECT_FAULT", [c, f] => (asmChan c).bind fun i => (asmFaults f).map (.injectFault i)
  | "FORCE_STATE", [c, x] => (asmChan c).bind fun i => (asmState x).map (.forceState i)
  | _, _ => none

/-- A line of a program: its timestamp, its command and its sample (R60), as the transaction it presents. -/
def asmLine (now : Time) (inp : Sample) (i : Instr) : Transaction := .cmd (encode i) now inp

end Sys2Proof.Machine
end

