-- ==== Sys2Proof/Safety.lean ====
section
/-!
DEFINITION. What counts as a safe run, in the terms the claims use: the fail-safe posture, the invariants of 10_state.md R38,
the frames and the transition tables of 40_unit_controller.md R77 and 42_master_coordinator.md R100.
-/
namespace Sys2Proof.Safety

open Sys2Proof.Machine

/-! ### Invariants (10_state.md R38) -/

/-- R38.1: the setpoint is within [20, 100]. -/
abbrev AmpInRange (u : UnitState) : Prop := 20 ≤ u.amp.toNat ∧ u.amp.toNat ≤ 100

/-- R38.2: `running` implies RUNNING or STOPPING. -/
abbrev RunningOnlyWhenDriven (u : UnitState) : Prop := u.running = true → u.state = .running ∨ u.state = .stopping

/-- R38.3: `start_out` if and only if STARTING or RUNNING. -/
abbrev StartOutMatchesState (u : UnitState) : Prop := u.startOut = true ↔ (u.state = .starting ∨ u.state = .running)

/-- R38.4: `reset_out == pulse`, and a pulse only in FAULT. -/
abbrev PulseOnlyInFault (u : UnitState) : Prop := u.resetOut = u.pulse ∧ (u.pulse = true → u.state = .fault)

/-- R38.5: where each pending request can stand. -/
abbrev PendingMatchesState (u : UnitState) : Prop :=
  (u.pending = .start → u.state = .idle) ∧
  (u.pending = .stop → u.state = .starting ∨ u.state = .running) ∧
  (u.pending = .reset ∨ u.pending = .clear → u.state = .fault)

/-- No request is pending during a reset pulse: the model's own strengthening of R38.5, needed for it to be kept by the end
of a pulse (40_unit_controller.md R71, R72: both resets are rejected during a pulse). DEDUCED, log entry 12. -/
abbrev NoRequestDuringPulse (u : UnitState) : Prop := u.pulse = true → u.pending = .none

/-- R38.6: an IDLE unit holds no fault (except between a FORCE_STATE and the next update). -/
abbrev IdleHasNoFault (u : UnitState) : Prop := u.state = .idle → u.faults = 0#5

/-- The invariants of one unit but R38.6, with the constant identity of 60_exceptions.md R122. -/
abbrev UnitInv (i : Chan) (u : UnitState) : Prop :=
  u.id = BitVec.ofNat 2 i.val ∧ AmpInRange u ∧ RunningOnlyWhenDriven u ∧ StartOutMatchesState u ∧ PulseOnlyInFault u ∧
    PendingMatchesState u ∧ NoRequestDuringPulse u

/-- R38.7 and R38.8: `confirmed` within `active`, and no sequence outside the sequencing states. -/
abbrev MasterInv (m : McState) : Prop :=
  m.confirmed &&& ~~~m.active = 0#4 ∧
  (m.state = .idle ∨ m.state = .emergencyStop ∨ m.state = .faultIsolation →
    m.active = 0#4 ∧ m.confirmed = 0#4 ∧ m.stopWait = 0#4)

/-- R38.9, and `rc.order` a permutation of the channels, and `rc.bcast` 0 or a setpoint (10_state.md R26). -/
abbrev RcInv (cfg : Config) (rc : RcState) : Prop :=
  rc.duty.toNat ≤ cfg.dutyMax.toNat ∧ rc.order.Perm chans ∧
    (rc.bcast.toNat = 0 ∨ (20 ≤ rc.bcast.toNat ∧ rc.bcast.toNat ≤ 100))

/-- Before INIT all units are UNKNOWN with every output de-asserted (R38), the actuator is 0 and the MC is idle (R125). -/
abbrev BootInv (s : State) : Prop :=
  s.sys.initialized = false → (∀ i : Chan, (s.unit i).state = .unknown) ∧ s.rc.duty = 0#16 ∧ s.m.state = .idle

/-- In EMERGENCY_STOP the actuator is 0 and no unit runs, starts or is about to (41_resource_coordinator.md R87). -/
abbrev EstopInv (s : State) : Prop :=
  s.m.state = .emergencyStop → s.rc.duty = 0#16 ∧ ∀ i : Chan,
    ((s.unit i).state = .idle ∨ (s.unit i).state = .fault ∨ (s.unit i).state = .unknown) ∧ (s.unit i).pending ≠ .start

/-- The invariant every step keeps. -/
abbrev Inv (s : State) : Prop :=
  (∀ i : Chan, UnitInv i (s.unit i)) ∧ MasterInv s.m ∧ RcInv s.cfg s.rc ∧ BootInv s ∧ EstopInv s

/-! ### Postures -/

/-- The fail-safe posture an emergency stop reaches (70_reset_and_hazards.md R129). -/
abbrev SafePosture (s : State) : Prop :=
  (∀ i : Chan, safe (s.unit i) = true ∧ (s.unit i).running = false) ∧ s.rc.duty = 0#16

/-- No output is driven: the physical posture before INIT (70_reset_and_hazards.md R125). -/
abbrev OutputsOff (s : State) : Prop :=
  (∀ i : Chan, (s.unit i).startOut = false ∧ (s.unit i).resetOut = false) ∧ s.rc.duty = 0#16

/-! ### Outputs and ports -/

/-- Two units drive the same outputs and stand in the same state. -/
abbrev SameDrive (u v : UnitState) : Prop :=
  v.state = u.state ∧ v.startOut = u.startOut ∧ v.resetOut = u.resetOut ∧ v.running = u.running

/-- The parameters, the ports' inputs and the transactions to come are as before: no command changes them. -/
abbrev SamePorts (s t : State) : Prop := t.cfg = s.cfg ∧ t.port = s.port ∧ t.now = s.now ∧ t.inp = s.inp

/-- Units agree but for their pending request. -/
abbrev SameButPending (u v : UnitState) : Prop := { v with pending := u.pending } = u

/-- The code of a result word, bits 3:0 (30_encoding.md R53). -/
def resultCode (w : Word) : BitVec 4 := w.extractLsb' 0 4

/-- The value of a result word, bits 31:16 (30_encoding.md R53). -/
def resultValue (w : Word) : BitVec 16 := w.extractLsb' 16 16

/-- The command was rejected with code c: the result word is c alone, and nothing else changed (60_exceptions.md R108). -/
abbrev RejectedWith (c : ResultCode) (s : State) (a : Answer) : Prop :=
  a = .next { s with result := some (resultWord 0 c) }

/-- The index field that names channel i (30_encoding.md R52). -/
def idxOf (i : Chan) : BitVec 4 := BitVec.ofNat 4 i.val

/-- The state after `return ok(v)` (00_scope.md R14, 30_encoding.md R53): v in the high half, code 0. -/
def returning (v : BitVec 16) (s : State) : State := { s with result := some (v ++ 0#16) }

/-- The fault classes latched in a unit have all cleared: every debounced level is low (40_unit_controller.md R72). -/
abbrev LatchedLevelsLow (u : UnitState) : Prop :=
  ∀ k : FaultClass, hasClass u.faults k = true → (u.debOf k).level = false

/-- The unit can take a start: IDLE, no fault, nothing pending but a start (40_unit_controller.md R65). -/
abbrev CanStart (u : UnitState) : Prop :=
  u.state = .idle ∧ u.faults = 0#5 ∧ (u.pending = .none ∨ u.pending = .start)

/-- The unit can take a stop (40_unit_controller.md R66). -/
abbrev CanStop (u : UnitState) : Prop :=
  ((u.state = .starting ∨ u.state = .running) ∧ (u.pending = .none ∨ u.pending = .stop)) ∨
    (u.state = .idle ∧ u.pending = .start)

/-- The overload reset is valid (40_unit_controller.md R71): exactly OVL latched, debounced clear, no pulse. -/
abbrev CanResetOvl (u : UnitState) : Prop :=
  u.state = .fault ∧ u.faults = 1#5 ∧ (u.debOf .ovl).level = false ∧ u.pulse = false ∧
    (u.pending = .none ∨ u.pending = .reset)

/-- The fault clear is valid (40_unit_controller.md R72): not OVL alone, every latched class debounced clear, no pulse. -/
abbrev CanClearFaults (u : UnitState) : Prop :=
  u.state = .fault ∧ u.pulse = false ∧ (u.pending = .none ∨ u.pending = .clear) ∧
    (u.faults = 0#5 ∨ u.faults &&& ~~~1#5 ≠ 0#5) ∧ LatchedLevelsLow u

/-- Every start path is open: no lockout, no inhibit (42_master_coordinator.md R88). -/
abbrev StartsAllowed (m : McState) : Prop :=
  m.state ≠ .emergencyStop ∧ m.state ≠ .faultIsolation ∧ m.inhibit = false

/-- The MC is in a lockout state (42_master_coordinator.md R88). -/
abbrev LockedOut (m : McState) : Prop := m.state = .emergencyStop ∨ m.state = .faultIsolation

/-- A unit a stop sequence waits for (42_master_coordinator.md R92). -/
abbrev Moving (u : UnitState) : Prop := u.state = .starting ∨ u.state = .running ∨ u.state = .stopping

/-- A FAULT unit the MC has not taken yet (42_master_coordinator.md R99). -/
abbrev NewlyFaulted (m : McState) (i : Chan) (u : UnitState) : Prop := u.state = .fault ∧ hasChan m.faulted i = false

/-! ### Numbers of the spec's tables, written out once more beside the model's own encodings, so that a statement fixes them -/

/-- The code of a unit state in the table of 10_state.md R22. -/
def unitStateNumber : UState → Nat
  | .idle => 0 | .starting => 1 | .running => 2 | .stopping => 3 | .fault => 4 | .unknown => 5

/-- The code of a master state in the table of 10_state.md R27. -/
def masterStateNumber : MState → Nat
  | .idle => 0 | .coordinatedStart => 1 | .running => 2 | .emergencyStop => 3 | .faultIsolation => 4

/-- The bit of a fault class in the table of 10_state.md R23. -/
def classPosition : FaultClass → Nat
  | .ovl => 0 | .ful => 1 | .comm => 2 | .hw => 3 | .wd => 4

/-- The result codes in the table of 30_encoding.md R54. -/
def resultNumber : ResultCode → Nat
  | .ok => 0 | .illegalOpcode => 1 | .reservedField => 2 | .badIndex => 3 | .badValue => 4 | .badState => 5 | .inhibited => 6
  | .notInit => 7 | .lockedOut => 8

/-- The window of a fault class in the table of 60_exceptions.md R109. -/
def windowOf (cfg : Config) : FaultClass → Time
  | .ovl => cfg.tDebOvl | .ful => cfg.tDebFul | .comm => 0 | .hw => cfg.tDebHw | .wd => cfg.tDebWd

/-- The register addresses 10_state.md R35 leaves unmapped. -/
abbrev Unmapped (a : BitVec 16) : Prop :=
  (0x07 ≤ a.toNat ∧ a.toNat ≤ 0x0F) ∨ (0x12 ≤ a.toNat ∧ a.toNat ≤ 0x1F) ∨
    (0x20 ≤ a.toNat ∧ a.toNat ≤ 0x5F ∧ 0xA ≤ a.toNat % 16) ∨ 0x60 ≤ a.toNat

/-! ### Transition tables -/

/-- The unit transitions a TICK can make (40_unit_controller.md R77), stays included. -/
abbrev TickMoves (u v : UState) : Prop :=
  v = u ∨ (u = .idle ∧ v = .starting) ∨ (u = .starting ∧ (v = .running ∨ v = .stopping)) ∨
    (u = .running ∧ v = .stopping) ∨ (u = .stopping ∧ v = .idle) ∨ v = .fault ∨ (u = .fault ∧ v = .idle)

/-- The commands the spec accepts before INIT (30_encoding.md R59). -/
def beforeInit : Instr → Bool
  | .nop | .init | .readReg _ | .getStatus _ | .isSafe _ => true
  | .tick | .start _ | .stop _ | .setAmp _ _ | .resetOvl _ | .clearFaults _ | .ampBcast _ | .coordStart _ | .confirm _
  | .coordStop _ | .unitStart _ | .unitStop _ | .reportFault _ _ | .estop | .setInhibit _ | .rearm | .setSim _ _
  | .injectFault _ _ | .forceState _ _ => false

/-- The diagnostic commands (43_diagnostics.md R101). -/
def diagnostic : Instr → Bool
  | .setSim _ _ | .injectFault _ _ | .forceState _ _ => true
  | .nop | .init | .tick | .readReg _ | .start _ | .stop _ | .setAmp _ _ | .resetOvl _ | .clearFaults _ | .getStatus _
  | .isSafe _ | .ampBcast _ | .coordStart _ | .confirm _ | .coordStop _ | .unitStart _ | .unitStop _ | .reportFault _ _
  | .estop | .setInhibit _ | .rearm => false

/-- The commands that act on outputs within their own transaction (20_memory.md R47), and TICK. -/
def drivesOutputs : Instr → Bool
  | .init | .tick | .estop | .forceState _ _ => true
  | .nop | .readReg _ | .start _ | .stop _ | .setAmp _ _ | .resetOvl _ | .clearFaults _ | .getStatus _
  | .isSafe _ | .ampBcast _ | .coordStart _ | .confirm _ | .coordStop _ | .unitStart _ | .unitStop _ | .reportFault _ _
  | .setInhibit _ | .rearm | .setSim _ _ | .injectFault _ _ => false

end Sys2Proof.Safety
end

