-- ==== Sys2Proof/WellFormed.lean ====
section
/-!
DEFINITION. Well-formed commands: every operand has a value that 30_encoding.md R55 calls valid for its kind. A command that
is not well formed still encodes, decodes and runs: its meaning answers BAD_INDEX or BAD_VALUE (R55, R59).
-/
namespace Sys2Proof

open Sys2Proof.Machine

/-- The index field, where the command uses it, names a channel (R55: "valid iff idx <= 3"). -/
def Instr.indexValid : Instr → Bool
  | .start i | .stop i | .resetOvl i | .clearFaults i | .getStatus i | .isSafe i | .confirm i | .unitStart i | .unitStop i =>
    (chanOf i).isSome
  | .setAmp i _ | .reportFault i _ | .setSim i _ | .injectFault i _ | .forceState i _ => (chanOf i).isSome
  | .nop | .init | .tick | .readReg _ | .ampBcast _ | .coordStart _ | .coordStop _ | .estop | .setInhibit _ | .rearm => true

/-- The mask or data operand is one that R55 calls valid for its kind (amp16 and addr16 admit every value). -/
def Instr.valueValid : Instr → Bool
  | .coordStart m | .coordStop m => chanSetValid m
  | .reportFault _ d | .injectFault _ d => fmask5Valid d
  | .setInhibit d | .setSim _ d => bool1Valid d
  | .forceState _ d => state3Valid d
  | .nop | .init | .tick | .readReg _ | .start _ | .stop _ | .setAmp _ _ | .resetOvl _ | .clearFaults _ | .getStatus _
  | .isSafe _ | .ampBcast _ | .confirm _ | .unitStart _ | .unitStop _ | .estop | .rearm => true

/-- Every operand of the command is valid (R55). -/
def Instr.wellFormed (i : Instr) : Bool := i.indexValid && i.valueValid

end Sys2Proof
end

