-- ==== Sys2Proof/Certificates/Slice0/Obligations.lean ====
section
/-!
DEFINITION. The statements for the provers, in the order of OBLIGATIONS.json. Where a statement gives `exec i s` as a next
state built from `s`, everything the state expression does not name is unchanged: the equation is the frame.
-/
open Sys2Proof Sys2Proof.Machine Sys2Proof.Safety

/-! ### Encoding -/

/-- 30_encoding.md R63: the encodings and the result words the spec writes out. -/
def Obligations.SpecEncodingsDecode : Prop :=
  decode true 0x01000000#32 = .instr .init ∧ decode true 0x02000000#32 = .instr .tick ∧
  decode true 0x10200000#32 = .instr (.start 2) ∧ decode true 0x12300037#32 = .instr (.setAmp 3 55) ∧
  decode true 0x1200FFFB#32 = .instr (.setAmp 0 0xFFFB) ∧ decode true 0x13100000#32 = .instr (.resetOvl 1) ∧
  decode true 0x200B0000#32 = .instr (.coordStart 0xB) ∧ decode true 0x25100009#32 = .instr (.reportFault 1 9) ∧
  decode true 0x26000000#32 = .instr .estop ∧ decode true 0x03000004#32 = .instr (.readReg 4) ∧
  decode true 0x32200002#32 = .instr (.forceState 2 2) ∧
  resultWord 0 .lockedOut = 0x00000008#32 ∧ resultWord 140 .ok = 0x008C0000#32

/-- Decoding an encoded command gives it back, every operand at every value; the diagnostic commands where they are present
(30_encoding.md R52, R56, R58). -/
def Obligations.DecodeOfEncode : Prop :=
  ∀ (diag : Bool) (i : Instr), (diagnostic i = true → diag = true) → decode diag (encode i) = .instr i

/-- A word that decodes to a command is that command's encoding: no word has a second meaning (30_encoding.md R56, R57). -/
def Obligations.EncodeOfDecode : Prop :=
  ∀ (diag : Bool) (w : Word) (i : Instr), decode diag w = .instr i → encode i = w

/-- 30_encoding.md R58: exactly the unassigned opcodes, and the diagnostic ones when they are absent, are illegal, and
the transaction returns ILLEGAL_OPCODE and writes no state. -/
def Obligations.UnassignedOpcodesIllegal : Prop :=
  ∀ (s : State) (w : Word) (now : Time) (inp : Sample) (rest : List Transaction),
    let op := (w >>> 24).toNat
    s.cfg.legal = true → s.port = .cmd w now inp :: rest →
    ((0x04 ≤ op ∧ op ≤ 0x0F) ∨ (0x18 ≤ op ∧ op ≤ 0x1F) ∨ (0x29 ≤ op ∧ op ≤ 0x2F) ∨ (0x33 ≤ op) ∨
        (s.cfg.diagPresent = false ∧ 0x30 ≤ op ∧ op ≤ 0x32) ↔
      decode s.cfg.diagPresent w = .illegalOpcode) ∧
    (decode s.cfg.diagPresent w = .illegalOpcode →
      step s = .next { s with port := rest, now := now, inp := inp, result := some 1#32 })

/-- 30_encoding.md R57: an assigned opcode with a non-zero value in a field it does not use returns RESERVED_FIELD and
writes no state. -/
def Obligations.UnusedFieldsReserved : Prop :=
  ∀ (s : State) (w : Word) (now : Time) (inp : Sample) (rest : List Transaction),
    let op := (w >>> 24).toNat
    let usesIdx := op ∈ [0x10, 0x11, 0x12, 0x13, 0x14, 0x15, 0x16, 0x21, 0x23, 0x24, 0x25, 0x30, 0x31, 0x32]
    let usesMsk := op ∈ [0x20, 0x22]
    let usesDat := op ∈ [0x03, 0x12, 0x17, 0x25, 0x27, 0x30, 0x31, 0x32]
    s.cfg.legal = true → s.port = .cmd w now inp :: rest → decode s.cfg.diagPresent w ≠ .illegalOpcode →
    (((¬ usesIdx ∧ (w >>> 20).toNat % 16 ≠ 0) ∨ (¬ usesMsk ∧ (w >>> 16).toNat % 16 ≠ 0) ∨
        (¬ usesDat ∧ w.toNat % 65536 ≠ 0)) ↔ decode s.cfg.diagPresent w = .reservedField) ∧
    (decode s.cfg.diagPresent w = .reservedField →
      step s = .next { s with port := rest, now := now, inp := inp, result := some 2#32 })

/-! ### The step -/

/-- A step runs the decoded command of the first presented transaction, at that transaction's timestamp and sample
(10_state.md R31). -/
def Obligations.StepRunsDecodedCommand : Prop :=
  ∀ (s : State) (w : Word) (now : Time) (inp : Sample) (rest : List Transaction) (i : Instr),
    s.cfg.legal = true → s.port = .cmd w now inp :: rest → decode s.cfg.diagPresent w = .instr i →
    step s = exec i { s with port := rest, now := now, inp := inp }

/-- With a legal configuration a step always answers a next state, keeps the parameters and takes exactly one transaction
(10_state.md R31, 60_exceptions.md R116, 70_reset_and_hazards.md R127). -/
def Obligations.LegalStepNeverStops : Prop :=
  ∀ s : State, s.cfg.legal = true → ∃ t, step s = .next t ∧ t.cfg = s.cfg ∧ t.port = s.port.tail

/-- The model's choices for what the spec leaves to it: with no transaction presented a step changes nothing (log entry 1),
and a configuration outside 00_scope.md R10 is refused (log entry 7). `legal` is R10: each of the nine timing parameters the
block reads is below 2^31, and DUTY_MAX, which has 16 bits, is at least 1. -/
def Obligations.IdleStepAndIllegalConfig : Prop :=
  (∀ s : State, s.port = [] → step s = .next s) ∧
  (∀ (s : State) (x : Transaction) (rest : List Transaction), s.cfg.legal = false → s.port = x :: rest →
    step s = .refused .illegalConfig) ∧
  ∀ c : Config, c.legal = true ↔
    (c.tStartDelay.toNat < 2 ^ 31 ∧ c.tStopSettle.toNat < 2 ^ 31 ∧ c.tResetPulse.toNat < 2 ^ 31 ∧
      c.tDebOvl.toNat < 2 ^ 31 ∧ c.tDebFul.toNat < 2 ^ 31 ∧ c.tDebHw.toNat < 2 ^ 31 ∧ c.tDebWd.toNat < 2 ^ 31 ∧
      c.tCommTimeout.toNat < 2 ^ 31 ∧ c.tSeqTimeout.toNat < 2 ^ 31) ∧ 1 ≤ c.dutyMax.toNat

/-- 70_reset_and_hazards.md R125: a Reset transaction gives every field its "after Reset" value of 10_state.md R37. -/
def Obligations.ResetGivesAfterResetValues : Prop :=
  ∀ (s : State) (rest : List Transaction), s.cfg.legal = true → s.port = .reset :: rest →
    ∃ t, step s = .next t ∧ t.result = none ∧ t.cfg = s.cfg ∧ t.port = rest ∧
      t.sys = { initialized := false, lastComm := 0, commLost := false } ∧
      (∀ i : Chan, t.unit i =
        { id := BitVec.ofNat 2 i.val, state := .unknown, faults := 0, freqHz := 0, powerW := 0, amp := 20, running := false,
          locked := false, commOk := false, sim := false, startCount := 0, faultCount := 0, startOut := false,
          resetOut := false, pending := .none, pulse := false, tState := 0,
          deb := Vector.replicate 5 { level := false, pend := false, since := 0 }, inj := 0 }) ∧
      t.rc = { duty := 0, order := [0, 1, 2, 3], bcast := 0 } ∧
      t.m = { state := .idle, inhibit := false, active := 0, confirmed := 0, faulted := 0, stopWait := 0, tStartSeq := 0,
              tStopSeq := 0, lastFault := { valid := false, timeout := false, ch := 0, mask := 0 } }

/-! ### Invariants -/

/-- The invariant holds after every Reset, whatever the configuration and the transactions presented, so at
`State.reset` (10_state.md R37, R38). -/
def Obligations.ResetSatisfiesInvariant : Prop :=
  (∀ (cfg : Config) (port : List Transaction), Inv (State.afterReset cfg port)) ∧ Inv State.reset

/-- Every step keeps the invariants of 10_state.md R38 (but R38.6, a statement of its own), the identity of the units, the
recency permutation, the posture before INIT and the posture in EMERGENCY_STOP. -/
def Obligations.StepKeepsInvariant : Prop :=
  ∀ s t : State, Inv s → step s = .next t → Inv t

/-- 10_state.md R38.6 and its exception: every command but FORCE_STATE keeps "no unit outside FAULT and UNKNOWN holds a
fault", and a TICK establishes it from any state, so an IDLE unit then holds no fault. -/
def Obligations.UnitsOutsideFaultHoldNoFault : Prop :=
  (∀ (i : Instr) (s t : State), (∀ (x : BitVec 4) (d : BitVec 16), i ≠ .forceState x d) → exec i s = .next t →
    (∀ j : Chan, (s.unit j).state ≠ .fault → (s.unit j).state ≠ .unknown → (s.unit j).faults = 0#5) →
    ∀ j : Chan, (t.unit j).state ≠ .fault → (t.unit j).state ≠ .unknown → (t.unit j).faults = 0#5) ∧
  (∀ s t : State, s.sys.initialized = true → exec .tick s = .next t →
    ∀ j : Chan, (t.unit j).state ≠ .unknown ∧ ((t.unit j).state ≠ .fault → (t.unit j).faults = 0#5))

/-- EMERGENCY_STOP is terminal: from a state that meets the invariant, every step but one that runs INIT or a Reset stays
in it, with the actuator at 0 and no unit driven (41_resource_coordinator.md R87, 42_master_coordinator.md R96). -/
def Obligations.EmergencyStopIsTerminal : Prop :=
  ∀ s t : State, Inv s → s.m.state = .emergencyStop → step s = .next t →
    (∀ (now : Time) (inp : Sample) (rest : List Transaction), s.port ≠ .cmd (encode .init) now inp :: rest) →
    (∀ rest : List Transaction, s.port ≠ .reset :: rest) →
    t.m.state = .emergencyStop ∧ t.rc.duty = 0#16 ∧
      ∀ j : Chan, (t.unit j).running = false ∧ (t.unit j).startOut = false

/-! ### Answers and rejections -/

/-- 30_encoding.md R53, R54: the result word's layout, the numbers of the result codes, the value 0 for every command but the
four that return one, and a failure's value 0 with no state written. -/
def Obligations.ResultWordLayout : Prop :=
  (∀ (v : BitVec 16) (c : ResultCode), (resultWord v c).toNat = 65536 * v.toNat + resultNumber c) ∧
  ∀ (i : Instr) (s : State), ∃ (t : State) (v : BitVec 16) (c : BitVec 4),
    exec i s = .next t ∧ t.result = some (v ++ 0#12 ++ c) ∧ c.toNat ≤ 8 ∧
    (c ≠ 0#4 → v = 0#16 ∧ t = { s with result := t.result }) ∧
    (i ≠ .tick → (∀ a, i ≠ .readReg a) → (∀ x, i ≠ .getStatus x) → (∀ x, i ≠ .isSafe x) → v = 0#16)

/-- Before INIT every command but NOP, INIT and the three reads is rejected with NOT_INIT (60_exceptions.md R106, R119). -/
def Obligations.NotInitBeforeInit : Prop :=
  ∀ (i : Instr) (s : State), s.sys.initialized = false → beforeInit i = false →
    (diagnostic i = true → s.cfg.diagPresent = true) → RejectedWith .notInit s (exec i s)

/-- 43_diagnostics.md R101: without DIAG_PRESENT the diagnostic commands are illegal opcodes, at the decoder and in their
meanings. -/
def Obligations.DiagnosticsAbsent : Prop :=
  ∀ i : Instr, diagnostic i = true → decode false (encode i) = .illegalOpcode ∧
    ∀ s : State, s.cfg.diagPresent = false → RejectedWith .illegalOpcode s (exec i s)

/-- An index of 4 to 15 is rejected with BAD_INDEX by every command that uses it, once it gets past the checks before
(30_encoding.md R55, R59, 41_resource_coordinator.md R78), whatever its other operand. -/
def Obligations.BadIndexRejected : Prop :=
  ∀ (x : BitVec 4) (d : BitVec 16) (i : Instr) (s : State), 4 ≤ x.toNat →
    i ∈ [.start x, .stop x, .setAmp x d, .resetOvl x, .clearFaults x, .getStatus x, .isSafe x, .confirm x, .unitStart x,
      .unitStop x, .reportFault x d, .setSim x d, .injectFault x d, .forceState x d] →
    (s.sys.initialized = true ∨ i ∈ [.getStatus x, .isSafe x]) →
    (i ∈ [.setSim x d, .injectFault x d, .forceState x d] → s.cfg.diagPresent = true) → RejectedWith .badIndex s (exec i s)

/-- An operand that 30_encoding.md R55 does not admit, and an unmapped register, are rejected with BAD_VALUE, before any
check of the state (30_encoding.md R59). -/
def Obligations.BadValueRejected : Prop :=
  (∀ (i : Instr) (ch : Chan) (d : BitVec 16) (s : State), s.sys.initialized = true →
    (i = .coordStart 0#4 ∨ i = .coordStop 0#4 ∨
      (i = .reportFault (idxOf ch) d ∧ (32 ≤ d.toNat ∨ d.toNat % 32 = 0)) ∨ (i = .setInhibit d ∧ 1 < d.toNat) ∨
      s.cfg.diagPresent = true ∧
        ((i = .injectFault (idxOf ch) d ∧ (32 ≤ d.toNat ∨ d.toNat % 32 = 0)) ∨ (i = .setSim (idxOf ch) d ∧ 1 < d.toNat) ∨
          (i = .forceState (idxOf ch) d ∧ 7 < d.toNat))) →
    RejectedWith .badValue s (exec i s)) ∧
  (∀ (s : State) (a : BitVec 16), Unmapped a → RejectedWith .badValue s (exec (.readReg a) s))

/-- 42_master_coordinator.md R88: the start gate on every start path: LOCKED_OUT in EMERGENCY_STOP and FAULT_ISOLATION
whatever the inhibit, else INHIBITED while the inhibit is set, else no objection. -/
def Obligations.StartGateOnEveryStartPath : Prop :=
  ∀ (s : State) (ch : Chan) (msk : ChanMask) (d : BitVec 16) (i : Instr), s.sys.initialized = true →
    (i = .start (idxOf ch) ∨ (i = .coordStart msk ∧ msk ≠ 0#4) ∨ i = .unitStart (idxOf ch) ∨
      (i = .forceState (idxOf ch) d ∧ 1 ≤ d.toNat ∧ d.toNat ≤ 3 ∧ s.cfg.diagPresent = true)) →
    (LockedOut s.m → RejectedWith .lockedOut s (exec i s)) ∧
    (¬ LockedOut s.m → s.m.inhibit = true → RejectedWith .inhibited s (exec i s)) ∧
    (¬ LockedOut s.m → s.m.inhibit = false → startGate s.m = none)

/-- A unit command whose state condition fails is rejected with BAD_STATE: START past an open gate, STOP, RESET_OVL,
CLEAR_FAULTS (40_unit_controller.md R68, R69, R71, R72). -/
def Obligations.UnitCommandsBadState : Prop :=
  ∀ (s : State) (ch : Chan), s.sys.initialized = true →
    (StartsAllowed s.m → ¬ CanStart (s.unit ch) → RejectedWith .badState s (exec (.start (idxOf ch)) s)) ∧
    (¬ CanStop (s.unit ch) → RejectedWith .badState s (exec (.stop (idxOf ch)) s)) ∧
    (¬ CanResetOvl (s.unit ch) → RejectedWith .badState s (exec (.resetOvl (idxOf ch)) s)) ∧
    (¬ CanClearFaults (s.unit ch) → RejectedWith .badState s (exec (.clearFaults (idxOf ch)) s))

/-- A master command whose state condition fails is rejected with BAD_STATE (42_master_coordinator.md R90 to R94, R98). -/
def Obligations.MasterCommandsBadState : Prop :=
  ∀ (s : State) (ch : Chan) (msk : ChanMask), s.sys.initialized = true →
    (msk ≠ 0#4 → StartsAllowed s.m →
      (s.m.state ≠ .idle ∨ ∃ j, hasChan msk j = true ∧ ¬ CanStart (s.unit j)) →
      RejectedWith .badState s (exec (.coordStart msk) s)) ∧
    (s.m.state ≠ .coordinatedStart ∨ hasChan s.m.active ch = false ∨ (s.unit ch).state ≠ .running →
      RejectedWith .badState s (exec (.confirm (idxOf ch)) s)) ∧
    (msk ≠ 0#4 → s.m.state ≠ .running → s.m.state ≠ .coordinatedStart →
      RejectedWith .badState s (exec (.coordStop msk) s)) ∧
    (StartsAllowed s.m → (s.m.state ≠ .running ∨ ¬ CanStart (s.unit ch)) →
      RejectedWith .badState s (exec (.unitStart (idxOf ch)) s)) ∧
    (s.m.state ≠ .running → RejectedWith .badState s (exec (.unitStop (idxOf ch)) s)) ∧
    (s.m.state ≠ .faultIsolation ∨
        (∃ j, (s.unit j).state ≠ .idle ∨ (s.unit j).faults ≠ 0#5 ∨ (s.unit j).pending ≠ .none) →
      RejectedWith .badState s (exec .rearm s))

/-! ### Results of the commands -/

/-- NOP, READ_REG of a mapped register, GET_STATUS and IS_SAFE complete before and after INIT, return their value and write
nothing (41_resource_coordinator.md R79, R83, 40_unit_controller.md R73, R74). -/
def Obligations.ReadsReturnAndWriteNothing : Prop :=
  ∀ s : State, exec .nop s = .next (returning 0 s) ∧
    (∀ (a v : BitVec 16), regRead s a = some v → exec (.readReg a) s = .next (returning v s)) ∧
    (∀ i : Chan, exec (.getStatus (idxOf i)) s = .next (returning (statusWord (s.unit i)) s)) ∧
    (∀ i : Chan, exec (.isSafe (idxOf i)) s = .next (returning (if safe (s.unit i) then 1 else 0) s))

/-- INIT completes in every state and gives every field its "after INIT" value of 10_state.md R37
(41_resource_coordinator.md R80). -/
def Obligations.InitGivesAfterInitValues : Prop :=
  ∀ s : State, ∃ t, exec .init s = .next t ∧ t.result = some 0#32 ∧ SamePorts s t ∧
    t.sys = { initialized := true, lastComm := s.now, commLost := false } ∧
    (∀ i : Chan, t.unit i =
      { id := BitVec.ofNat 2 i.val, state := .idle, faults := 0, freqHz := 0, powerW := 0, amp := 20, running := false,
        locked := false, commOk := true, sim := false, startCount := 0, faultCount := 0, startOut := false,
        resetOut := false, pending := .none, pulse := false, tState := s.now,
        deb := Vector.replicate 5 { level := false, pend := false, since := 0 }, inj := 0 }) ∧
    t.rc = { duty := 0, order := [0, 1, 2, 3], bcast := 0 } ∧
    t.m = { state := .idle, inhibit := false, active := 0, confirmed := 0, faulted := 0, stopWait := 0, tStartSeq := s.now,
            tStopSeq := s.now, lastFault := { valid := false, timeout := false, ch := 0, mask := 0 } }

/-- START latches its request past an open gate; STOP latches its own in STARTING and RUNNING and cancels an uncommitted start
in IDLE, whatever the inhibit and the MC state; nothing else changes (40_unit_controller.md R68, R69). -/
def Obligations.StartAndStopLatchRequests : Prop :=
  ∀ (s : State) (i : Chan), s.sys.initialized = true →
    (StartsAllowed s.m → CanStart (s.unit i) →
      exec (.start (idxOf i)) s = .next (returning 0 (s.setUnit i { s.unit i with pending := .start }))) ∧
    ((s.unit i).state = .starting ∨ (s.unit i).state = .running →
      (s.unit i).pending = .none ∨ (s.unit i).pending = .stop →
      exec (.stop (idxOf i)) s = .next (returning 0 (s.setUnit i { s.unit i with pending := .stop }))) ∧
    ((s.unit i).state = .idle → (s.unit i).pending = .start →
      exec (.stop (idxOf i)) s = .next (returning 0 (s.setUnit i { s.unit i with pending := .none })))

/-- SET_AMP clamps the signed operand to [20, 100], stores it and records the channel as the most recent; it always succeeds,
and the actuator does not change (40_unit_controller.md R70). -/
def Obligations.SetAmpClampsAndStores : Prop :=
  ∀ (s : State) (i : Chan) (dat : BitVec 16), s.sys.initialized = true →
    ∃ a : BitVec 8, (dat.toInt ≤ 20 → a = 20) ∧ (100 ≤ dat.toInt → a = 100) ∧
      (20 ≤ dat.toInt → dat.toInt ≤ 100 → (a.toNat : Int) = dat.toInt) ∧
      exec (.setAmp (idxOf i) dat) s = .next (returning 0
        { s.setUnit i { s.unit i with amp := a } with
          rc := { s.rc with order := i :: s.rc.order.filter (fun j => j ≠ i) } })

/-- RESET_OVL and CLEAR_FAULTS latch their request, and nothing else changes (40_unit_controller.md R71, R72). -/
def Obligations.ResetsLatchRequest : Prop :=
  ∀ (s : State) (i : Chan), s.sys.initialized = true →
    (CanResetOvl (s.unit i) →
      exec (.resetOvl (idxOf i)) s = .next (returning 0 (s.setUnit i { s.unit i with pending := .reset }))) ∧
    (CanClearFaults (s.unit i) →
      exec (.clearFaults (idxOf i)) s = .next (returning 0 (s.setUnit i { s.unit i with pending := .clear })))

/-- AMP_BCAST sets every setpoint to the clamped operand, leaves the recency order (3, 2, 1, 0) and records the value
(41_resource_coordinator.md R84). -/
def Obligations.BroadcastSetsEverySetpoint : Prop :=
  ∀ (s : State) (dat : BitVec 16), s.sys.initialized = true →
    ∃ a : BitVec 8, (dat.toInt ≤ 20 → a = 20) ∧ (100 ≤ dat.toInt → a = 100) ∧
      (20 ≤ dat.toInt → dat.toInt ≤ 100 → (a.toNat : Int) = dat.toInt) ∧
      exec (.ampBcast dat) s = .next (returning 0
        { s with u := perChan fun j => { s.unit j with amp := a }
                 rc := { s.rc with order := [3, 2, 1, 0], bcast := a } })

/-- COORD_START of startable channels latches a start in each channel of the set and no other, and starts the sequence
(42_master_coordinator.md R90). -/
def Obligations.CoordStartBeginsSequence : Prop :=
  ∀ (s : State) (msk : ChanMask), s.sys.initialized = true → msk ≠ 0#4 → s.m.state = .idle → s.m.inhibit = false →
    (∀ j : Chan, hasChan msk j = true → CanStart (s.unit j)) →
    exec (.coordStart msk) s = .next (returning 0
      { s with u := perChan fun j => if hasChan msk j then { s.unit j with pending := .start } else s.unit j
               m := { s.m with state := .coordinatedStart, active := msk, confirmed := 0, tStartSeq := s.now } })

/-- CONFIRM sets the confirmed bit of an active RUNNING unit during a coordinated start (42_master_coordinator.md R91). -/
def Obligations.ConfirmSetsBit : Prop :=
  ∀ (s : State) (i : Chan), s.sys.initialized = true → s.m.state = .coordinatedStart → hasChan s.m.active i = true →
    (s.unit i).state = .running →
    exec (.confirm (idxOf i)) s = .next (returning 0
      { s with m := { s.m with confirmed := s.m.confirmed ||| 1#4 <<< i.val } })

/-- COORD_STOP and UNIT_STOP stop the stoppable channels of the set, wait for the moving ones, and take the set out of the
sequence; other channels are not touched (42_master_coordinator.md R92, R94). -/
def Obligations.StopSequenceStopsChannels : Prop :=
  ∀ (s : State) (i : Instr) (msk : ChanMask), s.sys.initialized = true →
    ((i = .coordStop msk ∧ msk ≠ 0#4 ∧ (s.m.state = .running ∨ s.m.state = .coordinatedStart)) ∨
      (∃ ch : Chan, i = .unitStop (idxOf ch) ∧ msk = 1#4 <<< ch.val ∧ s.m.state = .running)) →
    ∃ wait : ChanMask, (∀ j : Chan, hasChan wait j = true ↔
        hasChan s.m.stopWait j = true ∨ (hasChan msk j = true ∧ Moving (s.unit j))) ∧
      exec i s = .next (returning 0
        { s with
          u := perChan fun j => if hasChan msk j then uStop (s.unit j) else s.unit j
          m := { s.m with
            active := s.m.active &&& ~~~msk
            confirmed := s.m.confirmed &&& ~~~msk
            stopWait := wait
            tStopSeq := if wait = s.m.stopWait then s.m.tStopSeq else s.now } })

/-- UNIT_START latches a start while the system is RUNNING and adds the channel to the active set
(42_master_coordinator.md R93). -/
def Obligations.UnitStartAddsChannel : Prop :=
  ∀ (s : State) (i : Chan), s.sys.initialized = true → s.m.state = .running → s.m.inhibit = false → CanStart (s.unit i) →
    exec (.unitStart (idxOf i)) s = .next (returning 0
      { s.setUnit i { s.unit i with pending := .start } with
        m := { s.m with active := s.m.active ||| 1#4 <<< i.val } })

/-- REPORT_FAULT isolates at once from every state but EMERGENCY_STOP, where it is recorded only
(42_master_coordinator.md R89, R95). -/
def Obligations.ReportFaultIsolates : Prop :=
  ∀ (s : State) (i : Chan) (f : FaultMask), s.sys.initialized = true → f ≠ 0#5 →
    (s.m.state = .emergencyStop →
      exec (.reportFault (idxOf i) (f.setWidth 16)) s = .next (returning 0
        { s with m := { s.m with
            faulted := s.m.faulted ||| 1#4 <<< i.val
            lastFault := { valid := true, timeout := false, ch := BitVec.ofNat 2 i.val, mask := f } } })) ∧
    (s.m.state ≠ .emergencyStop →
      exec (.reportFault (idxOf i) (f.setWidth 16)) s = .next (returning 0
        { s with
          u := perChan fun j => uStop (s.unit j)
          m := { s.m with
            state := .faultIsolation
            faulted := s.m.faulted ||| 1#4 <<< i.val
            lastFault := { valid := true, timeout := false, ch := BitVec.ofNat 2 i.val, mask := f }
            active := 0
            confirmed := 0
            stopWait := 0 } }))

/-- ESTOP completes in every MC state, and within its own transaction every unit is safe and not running, the actuator is 0
and the MC is in EMERGENCY_STOP; setpoints, telemetry, faults, counters, debounce and injections are kept
(42_master_coordinator.md R96, 40_unit_controller.md R67). -/
def Obligations.EstopReachesSafePosture : Prop :=
  ∀ s : State, s.sys.initialized = true →
    ∃ t, exec .estop s = .next (returning 0 t) ∧ SafePosture t ∧
      t = { s with
        u := perChan fun j => { s.unit j with
          state := if (s.unit j).state = .fault ∨ (s.unit j).state = .unknown then .fault else .idle
          startOut := false
          resetOut := false
          pulse := false
          running := false
          pending := .none
          tState := s.now }
        rc := { s.rc with duty := 0 }
        m := { s.m with state := .emergencyStop, active := 0, confirmed := 0, stopWait := 0 } }

/-- SET_INHIBIT of 0 or 1 writes the inhibit alone, in every MC state; REARM leaves FAULT_ISOLATION once every unit is IDLE,
clear and without a request, and keeps the last fault (42_master_coordinator.md R97, R98). -/
def Obligations.SetInhibitAndRearmComplete : Prop :=
  ∀ s : State, s.sys.initialized = true →
    (∀ b : Bool, exec (.setInhibit (if b then 1 else 0)) s =
      .next (returning 0 { s with m := { s.m with inhibit := b } })) ∧
    (s.m.state = .faultIsolation →
      (∀ j : Chan, (s.unit j).state = .idle ∧ (s.unit j).faults = 0#5 ∧ (s.unit j).pending = .none) →
      exec .rearm s = .next (returning 0 { s with m := { s.m with state := .idle, faulted := 0 } }))

/-- SET_SIM and INJECT_FAULT write their one field (43_diagnostics.md R102, R103). -/
def Obligations.SimAndInjectWriteTheirField : Prop :=
  ∀ (s : State) (i : Chan), s.sys.initialized = true → s.cfg.diagPresent = true →
    (∀ b : Bool, exec (.setSim (idxOf i) (if b then 1 else 0)) s =
      .next (returning 0 (s.setUnit i { s.unit i with sim := b }))) ∧
    (∀ f : FaultMask, f ≠ 0#5 → exec (.injectFault (idxOf i) (f.setWidth 16)) s =
      .next (returning 0 (s.setUnit i { s.unit i with inj := (s.unit i).inj ||| f })))

/-- FORCE_STATE puts the unit in the state its operand names, outputs and timer with it, within its own transaction; the
running states need an open start gate (43_diagnostics.md R104). -/
def Obligations.ForceStateSetsUnit : Prop :=
  ∀ (s : State) (i : Chan) (d : BitVec 16) (x : UState), s.sys.initialized = true → s.cfg.diagPresent = true →
    d.toNat ≤ 7 → unitStateNumber x = min d.toNat 5 →
    (x = .starting ∨ x = .running ∨ x = .stopping → StartsAllowed s.m) →
    exec (.forceState (idxOf i) d) s = .next (returning 0 (s.setUnit i { s.unit i with
      state := x
      pending := .none
      pulse := false
      resetOut := false
      startOut := decide (x = .starting ∨ x = .running)
      running := decide (x = .running ∨ x = .stopping)
      tState := s.now }))

/-! ### The control cycle -/

/-- TICK completes in every MC state once initialised, and returns the packed final states (41_resource_coordinator.md R82).
Bits 2:0 are unit 0, 5:3 unit 1, 8:6 unit 2, 11:9 unit 3, 14:12 the MC, bit 15 is 0, with the codes of 10_state.md R22 and
R27. -/
def Obligations.TickReturnsPackedStates : Prop :=
  ∀ s : State, s.sys.initialized = true → ∃ (t : State) (v : BitVec 16), exec .tick s = .next t ∧ SamePorts s t ∧
    t.result = some (v ++ 0#16) ∧
    v.toNat = unitStateNumber (t.unit 0).state + 8 * unitStateNumber (t.unit 1).state +
      64 * unitStateNumber (t.unit 2).state + 512 * unitStateNumber (t.unit 3).state + 4096 * masterStateNumber t.m.state

/-- The communication condition and the telemetry of a TICK (41_resource_coordinator.md R81, 40_unit_controller.md R75). -/
def Obligations.TickCommAndTelemetry : Prop :=
  ∀ s t : State, s.sys.initialized = true → exec .tick s = .next t →
    t.sys.initialized = true ∧
    t.sys.lastComm = (if s.inp.commSeen then s.now else s.sys.lastComm) ∧
    t.sys.commLost = decide (s.cfg.tCommTimeout.toNat ≤ (s.now - t.sys.lastComm).toNat) ∧
    ∀ i : Chan, let smp := if (s.unit i).sim then chanAt s.inp.sim i else chanAt s.inp.phys i
      (t.unit i).powerW = powerFromRaw s.cfg smp.powerRaw ∧
      (smp.windowMs = 0#16 → (t.unit i).freqHz = (s.unit i).freqHz) ∧
      (smp.windowMs ≠ 0#16 →
        (t.unit i).freqHz.toNat = smp.pulseCount.toNat * 10 * 1000 / smp.windowMs.toNat) ∧
      (t.unit i).locked = smp.lock ∧ (t.unit i).commOk = !t.sys.commLost

/-- Outside FAULT a TICK latches exactly the classes whose debounced level rises or that are injected, keeps those latched,
counts the new ones and clears the injections (60_exceptions.md R109 to R112, 43_diagnostics.md R103). What `debounce` does
is DebounceLatchesAfterWindow. -/
def Obligations.TickLatchesRisesAndInjections : Prop :=
  ∀ (s t : State) (i : Chan), s.sys.initialized = true → exec .tick s = .next t →
    let u := s.unit i
    let v := t.unit i
    let smp := if u.sim then chanAt s.inp.sim i else chanAt s.inp.phys i
    let raw : FaultClass → Bool := fun k => match k with
      | .ovl => smp.overload
      | .ful => decide (u.state = .running) && !smp.lock
      | .comm => t.sys.commLost
      | .hw => smp.hwFault
      | .wd => smp.wdFault
    (∀ k, v.debOf k = debounce (u.debOf k) (raw k) s.now (windowOf s.cfg k)) ∧ v.inj = 0#5 ∧
    v.faultCount = u.faultCount + BitVec.ofNat 16 (FaultClass.all.filter fun k =>
      !(hasClass u.faults k) && (hasClass u.inj k || (!(u.debOf k).level && (v.debOf k).level))).length ∧
    (u.state ≠ .fault → ∀ k, hasClass v.faults k =
      (hasClass u.faults k || hasClass u.inj k || (!(u.debOf k).level && (v.debOf k).level)))

/-- Fault entry: a TICK that finds a latched fault outside FAULT, or an UNKNOWN unit, de-asserts the outputs, clears running
and any request, and enters FAULT; the setpoint and the start count are kept (60_exceptions.md R113, 40_unit_controller.md
R76). -/
def Obligations.TickEntersFault : Prop :=
  ∀ (s t : State) (i : Chan), s.sys.initialized = true → exec .tick s = .next t → (s.unit i).state ≠ .fault →
    ((t.unit i).faults ≠ 0#5 ∨ (s.unit i).state = .unknown) →
    (t.unit i).state = .fault ∧ (t.unit i).startOut = false ∧ (t.unit i).resetOut = false ∧ (t.unit i).pulse = false ∧
      (t.unit i).running = false ∧ (t.unit i).pending = .none ∧ (t.unit i).tState = s.now ∧
      (t.unit i).amp = (s.unit i).amp ∧ (t.unit i).startCount = (s.unit i).startCount ∧
      (t.unit i).sim = (s.unit i).sim ∧ (t.unit i).id = (s.unit i).id

/-- The lifecycle IDLE, STARTING, RUNNING, STOPPING, IDLE of a unit without a fault, one transition a TICK, with its timers,
outputs and start count (40_unit_controller.md R76, R77). What becomes of the request is TickConsumesCommittedRequests. -/
def Obligations.TickCommitsLifecycle : Prop :=
  ∀ (s t : State) (i : Chan), s.sys.initialized = true → exec .tick s = .next t → (t.unit i).faults = 0#5 →
    let u := s.unit i
    let v := t.unit i
    let ran := (s.now - u.tState).toNat
    let becomes : UState → Bool → Bool → Time → BitVec 16 → Prop := fun x startOut running tState count =>
      v.state = x ∧ v.startOut = startOut ∧ v.running = running ∧ v.tState = tState ∧ v.startCount = count ∧
        v.resetOut = u.resetOut ∧ v.pulse = u.pulse
    let stays : Prop := becomes u.state u.startOut u.running u.tState u.startCount
    (u.state = .idle → u.pending = .start → becomes .starting true u.running s.now (u.startCount + 1)) ∧
    (u.state = .idle → u.pending ≠ .start → stays) ∧
    (u.state = .starting → u.pending = .stop → becomes .stopping false u.running s.now u.startCount) ∧
    (u.state = .starting → u.pending ≠ .stop → s.cfg.tStartDelay.toNat ≤ ran →
      becomes .running u.startOut true u.tState u.startCount) ∧
    (u.state = .starting → u.pending ≠ .stop → ran < s.cfg.tStartDelay.toNat → stays) ∧
    (u.state = .running → u.pending = .stop → becomes .stopping false u.running s.now u.startCount) ∧
    (u.state = .running → u.pending ≠ .stop → stays) ∧
    (u.state = .stopping → s.cfg.tStopSettle.toNat ≤ ran → becomes .idle u.startOut false u.tState u.startCount) ∧
    (u.state = .stopping → ran < s.cfg.tStopSettle.toNat → stays)

/-- Fault exit: the reset pulse starts, ends in IDLE or stays in FAULT, and the fault clear removes every class but OVL, each
re-checked against the debounced levels of that TICK; nothing else starts or ends a pulse, arms the timer or leaves FAULT, and
no exit touches start_out, running or the start count (60_exceptions.md R115, 40_unit_controller.md R76). `latched` is the mask
after this TICK's latching, `quiet` says that no pulse runs and the outputs and the timer are as before. -/
def Obligations.TickLeavesFaultByCommandOnly : Prop :=
  ∀ (s t : State) (i : Chan), s.sys.initialized = true → exec .tick s = .next t → (s.unit i).state = .fault →
    let u := s.unit i
    let v := t.unit i
    let low : FaultClass → Prop := fun k => (v.debOf k).level = false
    let quiet : Prop := v.pulse = false ∧ v.resetOut = u.resetOut ∧ v.tState = u.tState
    v.startOut = u.startOut ∧ v.running = u.running ∧ v.startCount = u.startCount ∧
    ∃ latched : FaultMask,
      (∀ k, hasClass latched k =
        (hasClass u.faults k || hasClass u.inj k || (!(u.debOf k).level && (v.debOf k).level))) ∧
      (u.pulse = true → s.cfg.tResetPulse.toNat ≤ (s.now - u.tState).toNat → latched = 1#5 → low .ovl →
        v.state = .idle ∧ v.faults = 0#5 ∧ v.pulse = false ∧ v.resetOut = false ∧ v.tState = s.now) ∧
      (u.pulse = true → s.cfg.tResetPulse.toNat ≤ (s.now - u.tState).toNat → ¬ (latched = 1#5 ∧ low .ovl) →
        v.state = .fault ∧ v.faults = latched ∧ v.pulse = false ∧ v.resetOut = false ∧ v.tState = u.tState) ∧
      (u.pulse = true → (s.now - u.tState).toNat < s.cfg.tResetPulse.toNat →
        v.state = .fault ∧ v.faults = latched ∧ v.pulse = true ∧ v.resetOut = u.resetOut ∧
          v.tState = u.tState) ∧
      (u.pulse = false → u.pending = .reset → latched = 1#5 → low .ovl →
        v.state = .fault ∧ v.faults = latched ∧ v.pending = .none ∧ v.pulse = true ∧ v.resetOut = true ∧ v.tState = s.now) ∧
      (u.pulse = false → u.pending = .reset → ¬ (latched = 1#5 ∧ low .ovl) →
        v.state = .fault ∧ v.faults = latched ∧ v.pending = .none ∧ quiet) ∧
      (u.pulse = false → u.pending = .clear → (∀ k, hasClass latched k = true → low k) →
        v.pending = .none ∧ v.faults = latched &&& 1#5 ∧ (v.state = .idle ↔ v.faults = 0#5) ∧
          (v.state = .idle ∨ v.state = .fault) ∧ v.pulse = false ∧ v.resetOut = u.resetOut ∧
          (v.state = .idle → v.tState = s.now) ∧ (v.state = .fault → v.tState = u.tState)) ∧
      (u.pulse = false → u.pending = .clear → (∃ k, hasClass latched k = true ∧ ¬ low k) →
        v.state = .fault ∧ v.faults = latched ∧ v.pending = .none ∧ quiet) ∧
      (u.pulse = false → u.pending ≠ .reset → u.pending ≠ .clear → v.state = .fault ∧ v.faults = latched ∧ quiet)

/-- The actuator after a TICK (41_resource_coordinator.md R86), for each policy over the channels running after the unit
updates. The exact sum of AVERAGE is the model's reading (log entry 9). -/
def Obligations.TickDrivesActuator : Prop :=
  ∀ s t : State, s.sys.initialized = true → exec .tick s = .next t →
    t.rc.order = s.rc.order ∧ t.rc.bcast = s.rc.bcast ∧
    ((∀ j : Chan, (t.unit j).running = false) → t.rc.duty = 0#16) ∧
    (∀ (j : Chan) (before after : List Chan), s.cfg.arbPolicy = .mostRecent → s.rc.order = before ++ j :: after →
      (∀ x ∈ before, (t.unit x).running = false) → (t.unit j).running = true →
      t.rc.duty = dutyOf s.cfg (t.unit j).amp.toNat) ∧
    (∀ j : Chan, s.cfg.arbPolicy = .maximum → (t.unit j).running = true →
      (∀ x : Chan, (t.unit x).running = true → (t.unit x).amp.toNat ≤ (t.unit j).amp.toNat) →
      t.rc.duty = dutyOf s.cfg (t.unit j).amp.toNat) ∧
    (∀ j : Chan, s.cfg.arbPolicy = .average → (t.unit j).running = true →
      t.rc.duty = dutyOf s.cfg
        ((∑ x : Chan, if (t.unit x).running then (t.unit x).amp.toNat else 0) /
          (∑ x : Chan, if (t.unit x).running then 1 else 0)))

/-- 41_resource_coordinator.md R85: the percent-to-duty mapping. -/
def Obligations.DutyIsLinearPercent : Prop :=
  (∀ (cfg : Config) (a : Nat), 20 ≤ a → a ≤ 100 →
    (dutyOf cfg a).toNat = a * cfg.dutyMax.toNat / 100 ∧ a * cfg.dutyMax.toNat / 100 ≤ cfg.dutyMax.toNat) ∧
  (∀ cfg : Config, cfg.dutyMax = 255#16 →
    dutyOf cfg 20 = 51#16 ∧ dutyOf cfg 50 = 127#16 ∧ dutyOf cfg 55 = 140#16 ∧ dutyOf cfg 100 = 255#16)

/-- 60_exceptions.md R111: a raw condition that differs from the level, first sampled at t0 and held, is followed at the first
update at a time t with `t - t0 >= T` and not before, on a rise and on a fall alike; until then the record waits with since
t0. A raw condition that equals the level ends the wait and keeps the level. -/
def Obligations.DebounceLatchesAfterWindow : Prop :=
  (∀ (d : Debounce) (r : Bool) (limit t0 : Time) (ts : List Time), d.level ≠ r → d.pend = false →
    let d1 := (t0 :: ts).foldl (fun d t => debounce d r t limit) d
    (d1.level = r ↔ ∃ t ∈ t0 :: ts, limit.toNat ≤ (t - t0).toNat) ∧
    (d1.pend = true ↔ d1.level ≠ r) ∧ d1.since = t0) ∧
  ∀ (d : Debounce) (limit now : Time), debounce d d.level now limit = { level := d.level, pend := false, since := d.since }

/-- A FAULT unit the MC has not taken sends the MC to FAULT_ISOLATION in the same TICK, and `last_fault` names the highest
such channel with its mask; EMERGENCY_STOP is not left (60_exceptions.md R114, R116, 42_master_coordinator.md R99). -/
def Obligations.TickIsolatesFaultedUnits : Prop :=
  ∀ (s t : State) (i : Chan), s.sys.initialized = true → exec .tick s = .next t →
    NewlyFaulted s.m i (t.unit i) →
    (s.m.state = .emergencyStop → t.m = s.m) ∧
    (s.m.state ≠ .emergencyStop → (∀ j : Chan, i < j → ¬ NewlyFaulted s.m j (t.unit j)) →
      t.m.state = .faultIsolation ∧ t.m.active = 0#4 ∧ t.m.confirmed = 0#4 ∧ t.m.stopWait = 0#4 ∧
      t.m.lastFault = { valid := true, timeout := false, ch := BitVec.ofNat 2 i.val, mask := (t.unit i).faults } ∧
      (∀ j : Chan, hasChan t.m.faulted j = true ↔ hasChan s.m.faulted j = true ∨ (t.unit j).state = .fault) ∧
      (∀ j : Chan, ¬ CanStop (t.unit j) ∨ (t.unit j).pending = .stop) ∧ t.m.inhibit = s.m.inhibit ∧
      t.m.tStartSeq = s.m.tStartSeq ∧ t.m.tStopSeq = s.m.tStopSeq)

/-- The MC in a TICK with no new fault: nothing of it changes in EMERGENCY_STOP (new faults or not) and in FAULT_ISOLATION;
elsewhere confirmation, completion, return to IDLE, and the sequence timeouts with their stop of every unit that can stop
(42_master_coordinator.md R89, R99). A start whose active set a stop has emptied completes as R99 computes it,
where the derived table R100 writes `!= 0`: the model's reading, log entry 13. -/
def Obligations.TickDrivesSequence : Prop :=
  ∀ s t : State, s.sys.initialized = true → exec .tick s = .next t →
    (s.m.state = .emergencyStop → t.m = s.m) ∧
    (s.m.state = .faultIsolation → (∀ j : Chan, ¬ NewlyFaulted s.m j (t.unit j)) → t.m = s.m) ∧
    (s.m.state ≠ .emergencyStop → s.m.state ≠ .faultIsolation → (∀ j : Chan, ¬ NewlyFaulted s.m j (t.unit j)) →
    ∃ confirmed wait : ChanMask,
      (∀ j : Chan, hasChan confirmed j = true ↔
        hasChan s.m.confirmed j = true ∨ (hasChan s.m.active j = true ∧ (t.unit j).state = .running)) ∧
      (∀ j : Chan, hasChan wait j = true ↔ hasChan s.m.stopWait j = true ∧ (t.unit j).state ≠ .idle) ∧
      let polled : McState := { s.m with confirmed := confirmed, stopWait := wait }
      let done : Prop := s.m.state ≠ .idle ∧ s.m.active = 0#4 ∧ wait = 0#4
      let complete : Prop := s.m.state = .coordinatedStart ∧ confirmed = s.m.active
      let late : Prop :=
        (s.m.state = .coordinatedStart ∧ ¬ complete ∧ s.cfg.tSeqTimeout.toNat ≤ (s.now - s.m.tStartSeq).toNat) ∨
        (wait ≠ 0#4 ∧ s.cfg.tSeqTimeout.toNat ≤ (s.now - s.m.tStopSeq).toNat)
      (done → t.m = { polled with state := .idle }) ∧
      (¬ done → ¬ late → complete → t.m = { polled with state := .running }) ∧
      (¬ done → ¬ late → ¬ complete → t.m = polled) ∧
      (¬ done → late → t.m = { s.m with
        state := .faultIsolation
        active := 0
        confirmed := 0
        stopWait := 0
        lastFault := { valid := true, timeout := true, ch := 0, mask := 0 } } ∧
        ∀ j : Chan, ¬ CanStop (t.unit j) ∨ (t.unit j).pending = .stop))

/-- The MC's transitions and their causes, and no others (42_master_coordinator.md R100). COORDINATED_START becomes RUNNING
with `confirmed == active != 0`; the one exception is the model's reading, log entry 13: where a COORD_STOP has left `active`
empty and units still stopping, R99 makes that transition too. -/
def Obligations.MasterTransitionTable : Prop :=
  ∀ (i : Instr) (s t : State), exec i s = .next t → s.m.state ≠ t.m.state →
    ((∃ msk, i = .coordStart msk) ∧ s.m.state = .idle ∧ t.m.state = .coordinatedStart) ∨
    (i = .tick ∧ s.m.state = .coordinatedStart ∧ t.m.state = .running ∧ t.m.confirmed = t.m.active ∧
      (t.m.active ≠ 0#4 ∨ t.m.stopWait ≠ 0#4)) ∨
    (i = .tick ∧ (s.m.state = .coordinatedStart ∨ s.m.state = .running) ∧ t.m.state = .idle ∧ t.m.active = 0#4 ∧
      t.m.stopWait = 0#4) ∨
    (((∃ x d, i = .reportFault x d) ∨ (i = .tick ∧ (t.m.lastFault.timeout = true ∨ ∃ j : Chan, (t.unit j).state = .fault))) ∧
      s.m.state ≠ .emergencyStop ∧ t.m.state = .faultIsolation) ∨
    (i = .rearm ∧ s.m.state = .faultIsolation ∧ t.m.state = .idle) ∨
    (i = .estop ∧ t.m.state = .emergencyStop) ∨
    (i = .init ∧ t.m.state = .idle)

/-! ### Frames over all commands -/

/-- Deferred effects: every command but INIT, TICK, ESTOP and FORCE_STATE leaves every unit's state, outputs and running flag
and the actuator as they were; FORCE_STATE leaves the actuator (20_memory.md R47, R49, 70_reset_and_hazards.md R128, R129).
`drivesOutputs` lists the four. -/
def Obligations.CommandEffectsAreDeferred : Prop :=
  ∀ (i : Instr) (s t : State), exec i s = .next t →
    (drivesOutputs i = false → t.rc.duty = s.rc.duty ∧ ∀ j : Chan, SameDrive (s.unit j) (t.unit j)) ∧
    ((∃ x d, i = .forceState x d) → t.rc.duty = s.rc.duty)

/-- A one-channel command leaves every other unit as it was (10_state.md R17, 41_resource_coordinator.md R78). REPORT_FAULT
stops other units and is not one of these. -/
def Obligations.OneChannelCommandsLeaveOthers : Prop :=
  ∀ (ch j : Chan) (d : BitVec 16) (i : Instr) (s t : State), j ≠ ch →
    i ∈ [.start (idxOf ch), .stop (idxOf ch), .setAmp (idxOf ch) d, .resetOvl (idxOf ch), .clearFaults (idxOf ch),
      .getStatus (idxOf ch), .isSafe (idxOf ch), .confirm (idxOf ch), .unitStart (idxOf ch), .unitStop (idxOf ch),
      .setSim (idxOf ch) d, .injectFault (idxOf ch) d, .forceState (idxOf ch) d] →
    exec i s = .next t → t.unit j = s.unit j

/-- Channels do not interfere in a TICK: everything of a unit but its pending request is decided by that unit, its own
samples, the parameters, the timestamp and the communication condition, whatever the other units, the RC and the MC hold
(10_state.md R17, 40_unit_controller.md R76). -/
def Obligations.TickUnitsDoNotInterfere : Prop :=
  ∀ (s1 s2 t1 t2 : State) (i : Chan), exec .tick s1 = .next t1 → exec .tick s2 = .next t2 →
    s1.unit i = s2.unit i → s1.sys = s2.sys → s1.cfg = s2.cfg → s1.now = s2.now →
    s1.inp.commSeen = s2.inp.commSeen → chanAt s1.inp.phys i = chanAt s2.inp.phys i →
    chanAt s1.inp.sim i = chanAt s2.inp.sim i → SameButPending (t1.unit i) (t2.unit i)

/-- A latched class stays latched until a reset: only INIT, and a TICK of a FAULT unit whose pulse ends or whose clear
commits, can unlatch it (60_exceptions.md R112, R115). -/
def Obligations.LatchedFaultsPersist : Prop :=
  ∀ (i : Instr) (s t : State) (j : Chan) (k : FaultClass), exec i s = .next t →
    hasClass (s.unit j).faults k = true → hasClass (t.unit j).faults k = false →
    i = .init ∨ (i = .tick ∧ (s.unit j).state = .fault ∧
      (((s.unit j).pulse = true ∧ k = .ovl) ∨ ((s.unit j).pending = .clear ∧ k ≠ .ovl)))

/-- Who writes what: no command changes the parameters, the inputs or the transactions to come; `sim` is written by SET_SIM
and INIT; the setpoint and the recency order by SET_AMP, AMP_BCAST and INIT; the inhibit by SET_INHIBIT and INIT; the counts
and the debounce records by TICK and INIT (10_state.md R25, R31, 60_exceptions.md R120, 40_unit_controller.md R70,
42_master_coordinator.md R97, 70_reset_and_hazards.md R127). -/
def Obligations.FieldWriters : Prop :=
  ∀ (i : Instr) (s t : State) (j : Chan), exec i s = .next t → SamePorts s t ∧ (i ≠ .init →
    ((∀ x d, i ≠ .setSim x d) → (t.unit j).sim = (s.unit j).sim) ∧
    ((∀ x d, i ≠ .setAmp x d) → (∀ d, i ≠ .ampBcast d) → (t.unit j).amp = (s.unit j).amp ∧ t.rc.order = s.rc.order) ∧
    ((∀ d, i ≠ .setInhibit d) → t.m.inhibit = s.m.inhibit) ∧
    (i ≠ .tick → (t.unit j).startCount = (s.unit j).startCount ∧ (t.unit j).faultCount = (s.unit j).faultCount ∧
      (t.unit j).deb = (s.unit j).deb))

/-- The commands 20_memory.md R44 calls idempotent: repeating one gives the same state as issuing it once; a STOP does so
when a stop is already pending. -/
def Obligations.IdempotentCommands : Prop :=
  ∀ (s t : State) (x : BitVec 4) (d : BitVec 16) (i : Instr),
    (i ∈ [.nop, .readReg d, .getStatus x, .isSafe x, .setAmp x d, .ampBcast d, .setInhibit d, .setSim x d, .estop,
        .start x] ∨
      (∃ ch : Chan, i = .stop (idxOf ch) ∧ (s.unit ch).pending = .stop)) →
    exec i s = .next t → exec i t = .next t

/-! ### Status and registers -/

/-- What safe means (40_unit_controller.md R64), and that it holds after a unit emergency stop (R67, which marks that sentence
as derived from R64). -/
def Obligations.SafeMeansIdleOrFaultAndQuiet : Prop :=
  ∀ u : UnitState, (safe u = true ↔ (u.state = .idle ∨ u.state = .fault) ∧ u.startOut = false ∧ u.resetOut = false) ∧
    ∀ now : Time, safe (uEstop now u) = true ∧ (uEstop now u).running = false

/-- 40_unit_controller.md R66: the UC's stop() on its own, and R65, its start(): the request where it is valid, nothing
otherwise. -/
def Obligations.UnitStartAndStopOperations : Prop :=
  ∀ u : UnitState,
    (uStartOk u = true ↔ u.state = .idle ∧ u.faults = 0#5 ∧ (u.pending = .none ∨ u.pending = .start)) ∧
    (uStopOk u = true ↔
      ((u.state = .starting ∨ u.state = .running) ∧ (u.pending = .none ∨ u.pending = .stop)) ∨
        (u.state = .idle ∧ u.pending = .start)) ∧
    (uStartOk u = true → uStart u = { u with pending := .start }) ∧
    (uStartOk u = false → uStart u = u) ∧
    (uStopOk u = true → u.state = .idle → uStop u = { u with pending := .none }) ∧
    (uStopOk u = true → u.state ≠ .idle → uStop u = { u with pending := .stop }) ∧
    (uStopOk u = false → uStop u = u)

/-- The bits of the status word, the value of GET_STATUS and of CHi_STATUS (10_state.md R36), with the codes of the unit states
(R22) and the positions of the fault classes (R23). -/
def Obligations.StatusWordLayout : Prop :=
  ∀ (s : State) (i : Chan), let u := s.unit i
    ((statusWord u).extractLsb' 0 3).toNat = unitStateNumber u.state ∧ (statusWord u).extractLsb' 3 5 = u.faults ∧
    (∀ k : FaultClass, hasClass u.faults k = (statusWord u).getLsbD (3 + classPosition k)) ∧
    (statusWord u).getLsbD 8 = u.running ∧ (statusWord u).getLsbD 9 = u.locked ∧ (statusWord u).getLsbD 10 = u.commOk ∧
    (statusWord u).getLsbD 11 = u.sim ∧ (statusWord u).getLsbD 12 = u.startOut ∧ (statusWord u).getLsbD 13 = u.resetOut ∧
    (statusWord u).getLsbD 14 = safe u ∧ (statusWord u).getLsbD 15 = (decide (u.pending ≠ .none) || u.pulse) ∧
    exec (.getStatus (idxOf i)) s = .next (returning (statusWord u) s) ∧
    regRead s (BitVec.ofNat 16 (0x29 + 0x10 * i.val)) = some (statusWord u)

/-- The register map: every register of 10_state.md R35 at its address for every channel, the state registers with the codes of
R22 and R27, and exactly the unmapped addresses (20_memory.md R40). -/
def Obligations.RegisterMap : Prop :=
  ∀ s : State,
    let rd : Nat → Option Nat := fun a => (regRead s (BitVec.ofNat 16 a)).map (·.toNat)
    let b : Bool → Nat := fun x => if x then 1 else 0
    let run : Chan → Nat := fun i => b (s.unit i).running
    rd 0x00 = some (run 0 + run 1 + run 2 + run 3) ∧
    rd 0x01 = some (run 0 + 2 * run 1 + 4 * run 2 + 8 * run 3) ∧
    rd 0x02 = some (masterStateNumber s.m.state) ∧
    rd 0x03 = some (s.m.active.toNat + 16 * s.m.confirmed.toNat + 256 * s.m.faulted.toNat + 4096 * s.m.stopWait.toNat) ∧
    rd 0x04 = some s.rc.duty.toNat ∧
    rd 0x05 = some (s.m.lastFault.ch.toNat + 16 * s.m.lastFault.mask.toNat + 16384 * b s.m.lastFault.timeout +
      32768 * b s.m.lastFault.valid) ∧
    rd 0x06 = some (b s.sys.initialized + 2 * b s.sys.commLost + 4 * b (s.m.state = .coordinatedStart) +
      8 * b (s.m.stopWait ≠ 0#4)) ∧
    rd 0x10 = some (b s.m.inhibit) ∧ rd 0x11 = some s.rc.bcast.toNat ∧
    (∀ i : Chan,
      let u := s.unit i
      let ch : Nat → Option Nat := fun off => rd (0x20 + 0x10 * i.val + off)
      ch 0 = some (b (u.pending = .start) + 2 * b (u.pending = .stop) + 4 * b (u.pending = .reset || u.pulse) +
        8 * b (u.pending = .clear)) ∧
      ch 1 = some u.amp.toNat ∧ ch 2 = some u.powerW.toNat ∧ ch 3 = some (min u.freqHz.toNat 65535) ∧
      ch 4 = some u.faults.toNat ∧
      ch 5 = some (b u.running + 2 * b u.locked + 4 * b u.commOk + 8 * b u.sim + 16 * b u.startOut + 32 * b u.resetOut +
        64 * b (safe u) + 128 * b u.pulse + 256 * u.id.toNat) ∧
      ch 6 = some (unitStateNumber u.state) ∧ ch 7 = some u.startCount.toNat ∧ ch 8 = some u.faultCount.toNat ∧
      ch 9 = some (statusWord u).toNat) ∧
    ∀ a : BitVec 16, regRead s a = none ↔ Unmapped a

/-- 30_encoding.md R61: the pseudo-instructions. -/
def Obligations.PseudoInstructionsExpand : Prop :=
  (∀ a, (Pseudo.rd a).expand = .command (.readReg a)) ∧
  (∀ v, (Pseudo.wr 0x0010 v).expand = .command (.setInhibit v)) ∧
  (∀ v, (Pseudo.wr 0x0011 v).expand = .command (.ampBcast v)) ∧
  (∀ (i : Chan) (v : BitVec 16), (Pseudo.wr (BitVec.ofNat 16 (0x21 + 0x10 * i.val)) v).expand =
    .command (.setAmp (idxOf i) v)) ∧
  (∀ i : Chan, let cmd := fun v => (Pseudo.wr (BitVec.ofNat 16 (0x20 + 0x10 * i.val)) v).expand
    cmd 0x0 = .command .nop ∧ cmd 0x1 = .command (.start (idxOf i)) ∧ cmd 0x2 = .command (.stop (idxOf i)) ∧
    cmd 0x4 = .command (.resetOvl (idxOf i)) ∧ cmd 0x8 = .command (.clearFaults (idxOf i)) ∧
    ∀ v : BitVec 16, v ∉ [0x0#16, 0x1#16, 0x2#16, 0x4#16, 0x8#16] → cmd v = .badValue) ∧
  (∀ a v : BitVec 16, a ≠ 0x0010#16 → a ≠ 0x0011#16 →
    (∀ i : Chan, a.toNat ≠ 0x20 + 0x10 * i.val ∧ a.toNat ≠ 0x21 + 0x10 * i.val) → (Pseudo.wr a v).expand = .badValue) ∧
  Pseudo.startAll.expand = .command (.coordStart 0xF) ∧ Pseudo.stopAll.expand = .command (.coordStop 0xF) ∧
  Pseudo.clearInhibit.expand = .command (.setInhibit 0)

/-! ### The pending request -/

/-- What a TICK makes of the pending request of a unit, in every state of the unit: a request that the unit update commits or
discards is consumed, a fault entry drops it, and any other is kept; then an isolation in that TICK stops the unit if it can
be stopped, and nothing else writes the request (10_state.md R24, 40_unit_controller.md R66, R76, 42_master_coordinator.md
R89, R99). `isolates` says that the MC isolates in this TICK. -/
def Obligations.TickConsumesCommittedRequests : Prop :=
  ∀ (s t : State) (i : Chan), s.sys.initialized = true → exec .tick s = .next t →
    let u := s.unit i
    let v := t.unit i
    let entered : Prop := u.state ≠ .fault ∧ (v.faults ≠ 0#5 ∨ u.state = .unknown)
    let consumed : Prop := (u.state = .idle ∧ u.pending = .start) ∨
      ((u.state = .starting ∨ u.state = .running) ∧ u.pending = .stop) ∨
      (u.state = .fault ∧ u.pulse = false ∧ (u.pending = .reset ∨ u.pending = .clear))
    let isolates : Prop := s.m.state ≠ .emergencyStop ∧
      ((∃ j : Chan, NewlyFaulted s.m j (t.unit j)) ∨ (s.m.state ≠ .faultIsolation ∧ t.m.state = .faultIsolation))
    ∃ own : Pending, (entered ∨ consumed → own = .none) ∧ (¬ (entered ∨ consumed) → own = u.pending) ∧
      (¬ isolates → v.pending = own) ∧
      (isolates → ¬ CanStop { v with pending := own } → v.pending = own) ∧
      (isolates → CanStop { v with pending := own } → v.pending = if v.state = .idle then .none else .stop)
end

