-- ==== Sys2Proof/Laws/Bits.lean ====
section
/-!
SUPPORT. Channel sets and fault masks (00_scope.md R12, 10_state.md R23), read bit by bit.
-/
namespace Sys2Proof.Machine

theorem hasChan_or (a b : ChanMask) (j : Chan) : hasChan (a ||| b) j = (hasChan a j || hasChan b j) := by
  simp [hasChan]

theorem hasChan_and (a b : ChanMask) (j : Chan) : hasChan (a &&& b) j = (hasChan a j && hasChan b j) := by
  simp [hasChan]

theorem hasChan_not (a : ChanMask) (j : Chan) : hasChan (~~~a) j = !(hasChan a j) := by
  simp [hasChan]

theorem hasChan_chanBit (i j : Chan) : hasChan (chanBit i) j = decide (i = j) := by
  fin_cases i <;> fin_cases j <;> rfl

/-- A channel is in the set of a predicate if the predicate holds of it. -/
theorem hasChan_chanSet (p : Chan → Bool) (j : Chan) : hasChan (chanSet p) j = p j := by
  have bits : ∀ (a b c d : Bool),
      (BitVec.ofBool d ++ BitVec.ofBool c ++ BitVec.ofBool b ++ BitVec.ofBool a).getLsbD 0 = a ∧
      (BitVec.ofBool d ++ BitVec.ofBool c ++ BitVec.ofBool b ++ BitVec.ofBool a).getLsbD 1 = b ∧
      (BitVec.ofBool d ++ BitVec.ofBool c ++ BitVec.ofBool b ++ BitVec.ofBool a).getLsbD 2 = c ∧
      (BitVec.ofBool d ++ BitVec.ofBool c ++ BitVec.ofBool b ++ BitVec.ofBool a).getLsbD 3 = d := by decide
  obtain ⟨h0, h1, h2, h3⟩ := bits (p 0) (p 1) (p 2) (p 3)
  fin_cases j
  · exact h0
  · exact h1
  · exact h2
  · exact h3

/-- Two channel sets with the same members are equal. -/
theorem chanMask_ext {a b : ChanMask} (h : ∀ j : Chan, hasChan a j = hasChan b j) : a = b := by
  ext j hj
  simpa [hasChan, BitVec.getLsbD_eq_getElem hj] using h ⟨j, hj⟩

theorem hasClass_or (a b : FaultMask) (k : FaultClass) : hasClass (a ||| b) k = (hasClass a k || hasClass b k) := by
  simp [hasClass]

theorem hasClass_and (a b : FaultMask) (k : FaultClass) : hasClass (a &&& b) k = (hasClass a k && hasClass b k) := by
  simp [hasClass]

/-- A class is in the mask of a predicate if the predicate holds of it. -/
theorem hasClass_faultSet (p : FaultClass → Bool) (k : FaultClass) : hasClass (faultSet p) k = p k := by
  have bits : ∀ (a b c d e : Bool),
      let m := BitVec.ofBool e ++ BitVec.ofBool d ++ BitVec.ofBool c ++ BitVec.ofBool b ++ BitVec.ofBool a
      m.getLsbD 0 = a ∧ m.getLsbD 1 = b ∧ m.getLsbD 2 = c ∧ m.getLsbD 3 = d ∧ m.getLsbD 4 = e := by decide
  obtain ⟨h0, h1, h2, h3, h4⟩ := bits (p .ovl) (p .ful) (p .comm) (p .hw) (p .wd)
  cases k
  · exact h0
  · exact h1
  · exact h2
  · exact h3
  · exact h4

/-- Two fault masks with the same classes are equal. -/
theorem faultMask_ext {a b : FaultMask} (h : ∀ k, hasClass a k = hasClass b k) : a = b := by
  ext j hj
  have : j = 0 ∨ j = 1 ∨ j = 2 ∨ j = 3 ∨ j = 4 := by omega
  rcases this with rfl | rfl | rfl | rfl | rfl
  · simpa [hasClass, FaultClass.index] using h .ovl
  · simpa [hasClass, FaultClass.index] using h .ful
  · simpa [hasClass, FaultClass.index] using h .comm
  · simpa [hasClass, FaultClass.index] using h .hw
  · simpa [hasClass, FaultClass.index] using h .wd

end Sys2Proof.Machine
end

