-- ==== Sys2Proof/Laws/Config.lean ====
section
/-!
SUPPORT. The table form of POWER_FROM_RAW leaves no function out (log entry 5).
-/
namespace Sys2Proof.Machine

/-- The table that lists every input of a function. -/
def tableOf (f : BitVec 16 → BitVec 16) : List (BitVec 16 × BitVec 16) :=
  (List.finRange (2 ^ 16)).map fun i => (BitVec.ofFin i, f (BitVec.ofFin i))

theorem lookup_map_self {α β : Type} [BEq α] [LawfulBEq α] (l : List α) (f : α → β) (a : α) (h : a ∈ l) :
    (l.map fun x => (x, f x)).lookup a = some (f a) := by
  induction l with
  | nil => simp at h
  | cons b l ih =>
    simp only [List.map_cons, List.lookup_cons]
    by_cases e : a = b
    · subst e; simp
    · have : (a == b) = false := by simpa using e
      rw [this]
      exact ih (by simpa [e] using h)

/-- Every total function from u16 to u16 is the POWER_FROM_RAW of some configuration (00_scope.md R9). -/
theorem powerFromRaw_complete (cfg : Config) (f : BitVec 16 → BitVec 16) :
    ∃ t, ∀ r, powerFromRaw { cfg with powerTable := t } r = f r := by
  refine ⟨tableOf f, fun r => ?_⟩
  have h : tableOf f = ((List.finRange (2 ^ 16)).map BitVec.ofFin).map fun x => (x, f x) := by
    simp only [tableOf, List.map_map]
    rfl
  have hm : r ∈ (List.finRange (2 ^ 16)).map BitVec.ofFin :=
    List.mem_map.mpr ⟨r.toFin, List.mem_finRange _, rfl⟩
  simp only [powerFromRaw, h, lookup_map_self _ f r hm, Option.getD_some]

end Sys2Proof.Machine
end

