-- ==== Sys2Proof/Laws/State.lean ====
section
/-!
SUPPORT. One lemma per field per update of the state, so that no later proof unfolds a record update.
-/
namespace Sys2Proof.Machine

@[simp] theorem chanAt_perChan {α : Type} (f : Chan → α) (i : Chan) : chanAt (perChan f) i = f i := by
  fin_cases i <;> rfl

/-- Two per-channel vectors with the same values are equal. -/
theorem chanAt_ext {α : Type} {u v : Vector α 4} (h : ∀ i : Chan, chanAt u i = chanAt v i) : u = v := by
  apply Vector.ext
  intro i hi
  exact h ⟨i, hi⟩

@[simp] theorem perChan_chanAt {α : Type} (u : Vector α 4) : perChan (chanAt u) = u :=
  chanAt_ext fun i => chanAt_perChan _ i

@[simp] theorem chanAt_set_self {α : Type} (v : Vector α 4) (i : Chan) (x : α) : chanAt (v.set i.val x i.isLt) i = x := by
  simp [chanAt]

theorem chanAt_set_other {α : Type} (v : Vector α 4) {i j : Chan} (x : α) (h : i ≠ j) :
    chanAt (v.set i.val x i.isLt) j = chanAt v j := by
  simp [chanAt, Fin.val_inj, h]

/-- A unit of a state written out, read from its unit vector. -/
@[simp] theorem unit_mk (sys : SysState) (u : Vector UnitState 4) (rc : RcState) (m : McState) (cfg : Config)
    (port : List Transaction) (now : Time) (inp : Sample) (result : Option Word) (i : Chan) :
    (State.mk sys u rc m cfg port now inp result).unit i = chanAt u i := rfl

@[simp] theorem chanAt_u (s : State) (i : Chan) : chanAt s.u i = s.unit i := rfl

@[simp] theorem perChan_unit (s : State) : (perChan fun i => s.unit i) = s.u := perChan_chanAt s.u

@[simp] theorem mem_chans (i : Chan) : i ∈ chans := by
  fin_cases i <;> decide

namespace State
variable (s : State) (i : Chan) (x : UnitState) (f : UnitState → UnitState)

@[simp] theorem setUnit_sys : (s.setUnit i x).sys = s.sys := rfl
@[simp] theorem setUnit_rc : (s.setUnit i x).rc = s.rc := rfl
@[simp] theorem setUnit_m : (s.setUnit i x).m = s.m := rfl
@[simp] theorem setUnit_cfg : (s.setUnit i x).cfg = s.cfg := rfl
@[simp] theorem setUnit_port : (s.setUnit i x).port = s.port := rfl
@[simp] theorem setUnit_now : (s.setUnit i x).now = s.now := rfl
@[simp] theorem setUnit_inp : (s.setUnit i x).inp = s.inp := rfl
@[simp] theorem setUnit_result : (s.setUnit i x).result = s.result := rfl

@[simp] theorem setUnit_self : (s.setUnit i x).unit i = x := chanAt_set_self _ _ _

theorem setUnit_other {i j : Chan} (h : i ≠ j) : (s.setUnit i x).unit j = s.unit j :=
  chanAt_set_other _ _ h

/-- Every unit after one unit is replaced. -/
theorem setUnit_get (j : Chan) : (s.setUnit i x).unit j = if i = j then x else s.unit j := by
  by_cases h : i = j
  · subst h; simp
  · simp [setUnit_other s x h, h]

@[simp] theorem onUnit_sys : (s.onUnit i f).sys = s.sys := rfl
@[simp] theorem onUnit_rc : (s.onUnit i f).rc = s.rc := rfl
@[simp] theorem onUnit_m : (s.onUnit i f).m = s.m := rfl
@[simp] theorem onUnit_cfg : (s.onUnit i f).cfg = s.cfg := rfl
@[simp] theorem onUnit_port : (s.onUnit i f).port = s.port := rfl
@[simp] theorem onUnit_now : (s.onUnit i f).now = s.now := rfl
@[simp] theorem onUnit_inp : (s.onUnit i f).inp = s.inp := rfl
@[simp] theorem onUnit_result : (s.onUnit i f).result = s.result := rfl

@[simp] theorem onUnit_self : (s.onUnit i f).unit i = f (s.unit i) := by simp [State.onUnit]

theorem onUnit_other {i j : Chan} (h : i ≠ j) : (s.onUnit i f).unit j = s.unit j := by
  simp [State.onUnit, setUnit_other s _ h]

/-- Every unit after an operation of one unit. -/
theorem onUnit_get (j : Chan) : (s.onUnit i f).unit j = if i = j then f (s.unit j) else s.unit j := by
  by_cases h : i = j
  · subst h; simp
  · simp [onUnit_other s f h, h]

/-- An operation that leaves the unit as it is leaves the state as it is. -/
theorem onUnit_id (h : f (s.unit i) = (s.unit i)) : s.onUnit i f = s := by
  have hu : (s.onUnit i f).u = s.u := chanAt_ext fun j => by
    show (s.onUnit i f).unit j = s.unit j
    rw [onUnit_get]
    split
    · next e => subst e; exact h
    · rfl
  calc s.onUnit i f = { s with u := (s.onUnit i f).u } := rfl
    _ = s := by rw [hu]

end State

/-- Two states with the same fields are equal; the units are compared one by one. -/
theorem State.ext_units {s t : State} (hsys : s.sys = t.sys) (hu : ∀ i : Chan, s.unit i = t.unit i) (hrc : s.rc = t.rc)
    (hm : s.m = t.m) (hcfg : s.cfg = t.cfg) (hport : s.port = t.port) (hnow : s.now = t.now) (hinp : s.inp = t.inp)
    (hres : s.result = t.result) : s = t := by
  cases s; cases t
  have := chanAt_ext hu
  simp_all

end Sys2Proof.Machine
end

