-- ==== Sys2Proof/Laws/Ops.lean ====
section
/-!
SUPPORT. One lemma per shared operation that says once everything it can do.
-/
namespace Sys2Proof.Machine

/-! ### Answers and checks: what a next state can be -/

theorem accept_eq (s : State) (v : BitVec 16) : s.accept v = .next { s with result := some (resultWord v .ok) } := rfl

theorem reject_eq (s : State) (c : ResultCode) : s.reject c = .next { s with result := some (resultWord 0 c) } := rfl

@[simp] theorem accept_eq_next (s t : State) (v : BitVec 16) :
    s.accept v = .next t ↔ t = { s with result := some (resultWord v .ok) } := by
  simp [State.accept, eq_comm]

@[simp] theorem reject_eq_next (s t : State) (c : ResultCode) :
    s.reject c = .next t ↔ t = { s with result := some (resultWord 0 c) } := by
  simp [State.reject, eq_comm]

/-- A diagnostic command runs, or is rejected with ILLEGAL_OPCODE. -/
theorem ifDiag_next {s t : State} {k : Answer} (h : ifDiag s k = .next t) :
    (s.cfg.diagPresent = true ∧ k = .next t) ∨
      (s.cfg.diagPresent = false ∧ t = { s with result := some (resultWord 0 .illegalOpcode) }) := by
  unfold ifDiag at h
  split at h <;> simp_all

/-- A command runs, or is rejected with NOT_INIT. -/
theorem ifInit_next {s t : State} {k : Answer} (h : ifInit s k = .next t) :
    (s.sys.initialized = true ∧ k = .next t) ∨
      (s.sys.initialized = false ∧ t = { s with result := some (resultWord 0 .notInit) }) := by
  unfold ifInit at h
  split at h <;> simp_all

/-- A command runs on the channel its index names, or is rejected with BAD_INDEX. -/
theorem onChannel_next {s t : State} {idx : BitVec 4} {k : Chan → Answer} (h : onChannel s idx k = .next t) :
    (∃ i, chanOf idx = some i ∧ k i = .next t) ∨
      (chanOf idx = none ∧ t = { s with result := some (resultWord 0 .badIndex) }) := by
  unfold onChannel at h
  split at h <;> simp_all

/-- A command runs, or is rejected with BAD_VALUE. -/
theorem ifValue_next {s t : State} {b : Bool} {k : Answer} (h : ifValue s b k = .next t) :
    (b = true ∧ k = .next t) ∨ (b = false ∧ t = { s with result := some (resultWord 0 .badValue) }) := by
  unfold ifValue at h
  split at h <;> simp_all

/-- A command runs, or is rejected with BAD_STATE. -/
theorem ifState_next {s t : State} {b : Bool} {k : Answer} (h : ifState s b k = .next t) :
    (b = true ∧ k = .next t) ∨ (b = false ∧ t = { s with result := some (resultWord 0 .badState) }) := by
  unfold ifState at h
  split at h <;> simp_all

/-- A start path runs, or is rejected with the start gate's code. -/
theorem ifStartAllowed_next {s t : State} {k : Answer} (h : ifStartAllowed s k = .next t) :
    (startGate s.m = none ∧ k = .next t) ∨
      (∃ c, startGate s.m = some c ∧ t = { s with result := some (resultWord 0 c) }) := by
  unfold ifStartAllowed at h
  split at h <;> simp_all

/-- The start gate is open exactly outside the lockout states with the inhibit clear. -/
theorem startGate_eq_none {m : McState} :
    startGate m = none ↔ m.state ≠ .emergencyStop ∧ m.state ≠ .faultIsolation ∧ m.inhibit = false := by
  unfold startGate
  split
  · next h => simp; intro h1 h2; rcases h with h | h <;> contradiction
  · next h => split <;> simp_all

/-! ### Loops over the units -/

/-- A loop of unit operations over the channels changes the units alone, each by its own operation. -/
theorem foldl_onUnit (f : Chan → UnitState → UnitState) (s : State) :
    chans.foldl (fun s j => s.onUnit j (f j)) s = { s with u := perChan fun j => f j (s.unit j) } := by
  apply State.ext_units <;> try rfl
  intro i
  simp only [chans, List.foldl, unit_mk, chanAt_perChan]
  fin_cases i <;> simp [State.onUnit_get]

/-- The same loop over a chosen set of channels. -/
theorem foldl_onUnit_if (p : Chan → Bool) (f : UnitState → UnitState) (s : State) :
    chans.foldl (fun s j => if p j then s.onUnit j f else s) s =
      { s with u := perChan fun j => if p j then f (s.unit j) else (s.unit j) } := by
  have h : (fun (s : State) j => if p j then s.onUnit j f else s) =
      fun s j => s.onUnit j (fun u => if p j then f u else u) := by
    funext s j
    cases hp : p j
    · simp only [Bool.false_eq_true, if_false]
      exact (s.onUnit_id j _ rfl).symm
    · simp
  rw [h, foldl_onUnit]

/-- The unit emergency stops of ESTOP. -/
theorem foldl_uEstop (s : State) :
    chans.foldl (fun s i => s.onUnit i (uEstop s.now)) s = { s with u := perChan fun j => uEstop s.now (s.unit j) } := by
  apply State.ext_units <;> try rfl
  intro i
  simp only [chans, List.foldl, unit_mk, chanAt_perChan]
  fin_cases i <;> simp [State.onUnit_get]

/-- The unit updates of one control cycle: each unit by its own update, nothing else. -/
theorem foldl_updateUnit (s : State) :
    chans.foldl updateUnit s = { s with
        u := perChan fun j => unitUpdate s.cfg s.sys.commLost s.now (chanAt s.inp.phys j) (chanAt s.inp.sim j) (s.unit j) } := by
  apply State.ext_units <;> try rfl
  intro i
  simp only [chans, List.foldl, unit_mk, chanAt_perChan]
  fin_cases i <;> simp [updateUnit, State.onUnit_get]

/-- A broadcast sets every setpoint and brings the last channel to the front. -/
theorem foldl_setSetpoint (a : BitVec 8) (s : State) :
    chans.foldl (setSetpoint a) s =
      { s with
        u := perChan fun j => { (s.unit j) with amp := a }
        rc := { s.rc with order := [3, 2, 1, 0] } } := by
  apply State.ext_units <;> try rfl
  · intro i
    simp only [chans, List.foldl, unit_mk, chanAt_perChan]
    fin_cases i <;> simp [setSetpoint, State.onUnit_get]
  · simp only [chans, List.foldl, setSetpoint, State.onUnit_rc]
    have h : s.rc.order.filter (fun j => decide (j ≠ 3) && (decide (j ≠ 2) && (decide (j ≠ 1) && decide (j ≠ 0)))) = [] := by
      rw [List.filter_eq_nil_iff]
      intro j _
      fin_cases j <;> simp
    simpa [List.filter_filter] using h

/-! ### The unit's operations -/

@[simp] theorem uStop_state (u : UnitState) : (uStop u).state = u.state := by
  unfold uStop; split <;> rfl

/-- UStop writes the pending request alone. -/
theorem uStop_eq (u : UnitState) : uStop u = { u with pending := (uStop u).pending } := by
  unfold uStop; split <;> rfl

/-- UStart writes the pending request alone. -/
theorem uStart_eq (u : UnitState) : uStart u = { u with pending := (uStart u).pending } := by
  unfold uStart; split <;> rfl

/-- Everything Isolate does: it stops every stoppable unit, and writes the MC's record. -/
theorem isolate_eq (c : Option Chan) (f : FaultMask) (timeout : Bool) (s : State) :
    isolate c f timeout s =
      { s with
        u := perChan fun j => uStop (s.unit j)
        m := { s.m with
          state := .faultIsolation
          faulted := markFaulted s.m.faulted c
          lastFault := ⟨true, timeout, faultChannel c, f⟩
          active := 0
          confirmed := 0
          stopWait := 0 } } := by
  unfold isolate
  rw [foldl_onUnit (fun _ => uStop)]

/-- The channels COORD_STOP adds to `stop_wait`. -/
def stopAdded (msk : ChanMask) (s : State) : ChanMask :=
  chanSet fun i => hasChan msk i && !(hasChan s.m.stopWait i) &&
    (decide ((s.unit i).state = .starting) || decide ((s.unit i).state = .running) || decide ((s.unit i).state = .stopping))

/-- Everything the body of COORD_STOP does. -/
theorem stopChannels_eq (msk : ChanMask) (s : State) :
    stopChannels msk s =
      { s with
        u := perChan fun j => if hasChan msk j then uStop (s.unit j) else (s.unit j)
        m := { s.m with
          stopWait := s.m.stopWait ||| stopAdded msk s
          active := s.m.active &&& ~~~msk
          confirmed := s.m.confirmed &&& ~~~msk
          tStopSeq := if stopAdded msk s ≠ 0#4 then s.now else s.m.tStopSeq } } := by
  have hst : ∀ j : Chan, (if hasChan msk j = true then uStop (s.unit j) else (s.unit j)).state = (s.unit j).state := by
    intro j; split <;> simp
  unfold stopChannels
  simp only [foldl_onUnit_if, unit_mk, chanAt_perChan, hst]
  rfl

/-! ### The parts of a control cycle -/

/-- The RC's update changes the units and the actuator alone. -/
theorem rcUpdate_eq (s : State) :
    rcUpdate s =
      let t := { s with
        u := perChan fun j => unitUpdate s.cfg s.sys.commLost s.now (chanAt s.inp.phys j) (chanAt s.inp.sim j) (s.unit j) }
      { t with rc := { t.rc with duty := arbitrate t } } := by
  unfold rcUpdate
  rw [foldl_updateUnit]

/-- With no unit running the actuator is 0. -/
theorem arbitrate_none_running {s : State} (h : ∀ i : Chan, (s.unit i).running = false) : arbitrate s = 0 := by
  have : runningChans s = [] := by
    simp [runningChans, h]
  simp [arbitrate, this]

/-- The percent-to-duty mapping never exceeds the full scale. -/
theorem dutyOf_le (cfg : Config) (a : Nat) : (dutyOf cfg a).toNat ≤ cfg.dutyMax.toNat := by
  have := cfg.dutyMax.isLt
  simp only [dutyOf, BitVec.toNat_ofNat]
  exact (Nat.mod_le _ _).trans (min_le_right _ _)

/-- The arbiter never exceeds the full scale. -/
theorem arbitrate_le (s : State) : (arbitrate s).toNat ≤ s.cfg.dutyMax.toNat := by
  unfold arbitrate
  dsimp only
  split
  · simp
  · split
    · split
      · exact dutyOf_le _ _
      · simp
    · exact dutyOf_le _ _
    · exact dutyOf_le _ _

/-- Every way one unit update can end: fault entry, or the commit of the state's case; in both the detection ran first. -/
theorem unitUpdate_cases (cfg : Config) (commLost : Bool) (now : Time) (phys sim : ChannelSample) (u : UnitState) :
    let smp := if u.sim then sim else phys
    let v := detect cfg commLost now smp u.state (telemetry cfg commLost smp u)
    (unitUpdate cfg commLost now phys sim u = enterFault now v ∧
        (u.state = .unknown ∨ (v.faults ≠ 0#5 ∧ u.state ≠ .fault))) ∨
      (unitUpdate cfg commLost now phys sim u = commit cfg now v ∧ u.state ≠ .unknown ∧
        (v.faults = 0#5 ∨ u.state = .fault)) := by
  intro smp v
  unfold unitUpdate
  by_cases h : u.state = .unknown ∨ (v.faults ≠ 0#5 ∧ u.state ≠ .fault)
  · exact .inl ⟨if_pos h, h⟩
  · refine .inr ⟨if_neg h, fun e => h (.inl e), ?_⟩
    by_cases hf : v.faults = 0#5
    · exact .inl hf
    · exact .inr (by_contra fun e => h (.inr ⟨hf, e⟩))

/-- Detection leaves the state machine, the outputs, the setpoint and the pending request as they were. -/
theorem detect_frame (cfg : Config) (commLost : Bool) (now : Time) (smp : ChannelSample) (u : UnitState) :
    let v := detect cfg commLost now smp u.state (telemetry cfg commLost smp u)
    v.id = u.id ∧ v.state = u.state ∧ v.amp = u.amp ∧ v.running = u.running ∧ v.sim = u.sim ∧
      v.startCount = u.startCount ∧ v.startOut = u.startOut ∧ v.resetOut = u.resetOut ∧ v.pending = u.pending ∧
      v.pulse = u.pulse ∧ v.tState = u.tState ∧ v.inj = 0 :=
  ⟨rfl, rfl, rfl, rfl, rfl, rfl, rfl, rfl, rfl, rfl, rfl, rfl⟩

/-- One poll of fault isolation: nothing, or Isolate of that unit. -/
theorem pollFault_cases (s : State) (i : Chan) :
    pollFault s i = s ∨ (pollFault s i = isolate (some i) (s.unit i).faults false s ∧ (s.unit i).state = .fault ∧
      hasChan s.m.faulted i = false) := by
  unfold pollFault
  split
  · next h => exact .inr ⟨rfl, h.1, h.2⟩
  · exact .inl rfl

/-- t differs from s at most in the units' pending requests and in the MC's record. -/
structure MasterFrame (s t : State) : Prop where
  unit : ∀ i : Chan, t.unit i = { s.unit i with pending := (t.unit i).pending }
  sys : t.sys = s.sys
  rc : t.rc = s.rc
  cfg : t.cfg = s.cfg
  port : t.port = s.port
  now : t.now = s.now
  inp : t.inp = s.inp
  result : t.result = s.result

theorem MasterFrame.refl (s : State) : MasterFrame s s := ⟨fun _ => rfl, rfl, rfl, rfl, rfl, rfl, rfl, rfl⟩

theorem MasterFrame.withM {s t : State} (h : MasterFrame s t) (m : McState) : MasterFrame s { t with m := m } :=
  ⟨h.unit, h.sys, h.rc, h.cfg, h.port, h.now, h.inp, h.result⟩

theorem MasterFrame.isolated {s t : State} (h : MasterFrame s t) (c : Option Chan) (f : FaultMask) (b : Bool) :
    MasterFrame s (isolate c f b t) := by
  rw [isolate_eq]
  refine ⟨fun i => ?_, h.sys, h.rc, h.cfg, h.port, h.now, h.inp, h.result⟩
  rw [unit_mk, chanAt_perChan, uStop_eq, h.unit i]

theorem MasterFrame.polled {s t : State} (h : MasterFrame s t) (i : Chan) : MasterFrame s (pollFault t i) := by
  rcases pollFault_cases t i with e | ⟨e, -, -⟩ <;> rw [e]
  · exact h
  · exact h.isolated _ _ _

theorem MasterFrame.polledAll {s : State} (l : List Chan) : ∀ t : State, MasterFrame s t →
    MasterFrame s (l.foldl pollFault t) := by
  induction l with
  | nil => exact fun _ h => h
  | cons i l ih => exact fun t h => ih _ (h.polled i)

/-- The master update changes no part of a unit but its pending request, and nothing of the RC, `sys`, the parameters or the
ports. -/
theorem masterUpdate_frame (s : State) : MasterFrame s (masterUpdate s) := by
  have polled : MasterFrame s (chans.foldl pollFault s) := .polledAll _ _ (.refl s)
  unfold masterUpdate
  dsimp only
  split
  · exact .refl s
  · generalize chans.foldl pollFault s = t at polled
    split
    · exact polled
    · split
      · exact polled.withM _
      · split
        · exact (polled.withM _).isolated _ _ _
        · exact polled.withM _

end Sys2Proof.Machine
end

