-- ==== Sys2Proof/Laws/Cycle.lean ====
section
/-!
SUPPORT. What a whole control cycle (41_resource_coordinator.md R82) does to each part of the state.
-/
namespace Sys2Proof.Machine

/-- The communication-loss condition of this cycle, as every unit sees it. -/
def cycleCommLost (s : State) : Bool := (commCondition s).sys.commLost

/-- Unit i's own update in this cycle. -/
def cycleUnit (s : State) (i : Chan) : UnitState :=
  unitUpdate s.cfg (cycleCommLost s) s.now (chanAt s.inp.phys i) (chanAt s.inp.sim i) (s.unit i)

/-- The state the master update of this cycle starts from. -/
def beforeMaster (s : State) : State := rcUpdate (commCondition s)

theorem controlCycle_eq (s : State) : controlCycle s = masterUpdate (beforeMaster s) := rfl

@[simp] theorem beforeMaster_unit (s : State) (i : Chan) : (beforeMaster s).unit i = cycleUnit s i := by
  rw [beforeMaster, rcUpdate_eq]
  simp only [unit_mk, chanAt_perChan]
  rfl

@[simp] theorem beforeMaster_m (s : State) : (beforeMaster s).m = s.m := by
  simp [beforeMaster, rcUpdate_eq, commCondition]

@[simp] theorem beforeMaster_sys (s : State) : (beforeMaster s).sys = (commCondition s).sys := by
  simp [beforeMaster, rcUpdate_eq]

@[simp] theorem beforeMaster_cfg (s : State) : (beforeMaster s).cfg = s.cfg := by
  simp [beforeMaster, rcUpdate_eq, commCondition]

@[simp] theorem beforeMaster_now (s : State) : (beforeMaster s).now = s.now := by
  simp [beforeMaster, rcUpdate_eq, commCondition]

@[simp] theorem beforeMaster_order (s : State) : (beforeMaster s).rc.order = s.rc.order := by
  simp [beforeMaster, rcUpdate_eq, commCondition]

@[simp] theorem beforeMaster_bcast (s : State) : (beforeMaster s).rc.bcast = s.rc.bcast := by
  simp [beforeMaster, rcUpdate_eq, commCondition]

/-- The arbiter reads the setpoints, the running flags, the recency order and the parameters alone. -/
theorem arbitrate_congr {s t : State} (hu : ∀ i : Chan, (s.unit i).running = (t.unit i).running ∧
    (s.unit i).amp = (t.unit i).amp) (ho : s.rc.order = t.rc.order) (hc : s.cfg = t.cfg) : arbitrate s = arbitrate t := by
  have hr : runningChans s = runningChans t := by
    simp only [runningChans, (hu _).1]
  have ha : ampOf s = ampOf t := by
    funext i
    simp only [ampOf, (hu i).2]
  simp only [arbitrate, hr, ha, ho, hc, (hu _).1]

/-- The actuator before the master update is what the arbiter computes from that state. -/
theorem beforeMaster_duty (s : State) : (beforeMaster s).rc.duty = arbitrate (beforeMaster s) := by
  refine (?_ : (beforeMaster s).rc.duty = _).trans (arbitrate_congr (s := chans.foldl updateUnit (commCondition s)) ?_ ?_ ?_)
  · rfl
  · intro i; exact ⟨rfl, rfl⟩
  · rfl
  · rfl

/-- After a cycle a unit is its own update, but for the pending request. -/
theorem controlCycle_unit (s : State) (i : Chan) :
    (controlCycle s).unit i = { cycleUnit s i with pending := ((controlCycle s).unit i).pending } := by
  have h := (masterUpdate_frame (beforeMaster s)).unit i
  rwa [beforeMaster_unit] at h

@[simp] theorem controlCycle_sys (s : State) : (controlCycle s).sys = (commCondition s).sys := by
  rw [controlCycle_eq, (masterUpdate_frame _).sys, beforeMaster_sys]

@[simp] theorem controlCycle_cfg (s : State) : (controlCycle s).cfg = s.cfg := by
  rw [controlCycle_eq, (masterUpdate_frame _).cfg, beforeMaster_cfg]

@[simp] theorem controlCycle_now (s : State) : (controlCycle s).now = s.now := by
  rw [controlCycle_eq, (masterUpdate_frame _).now, beforeMaster_now]

@[simp] theorem controlCycle_port (s : State) : (controlCycle s).port = s.port := by
  rw [controlCycle_eq, (masterUpdate_frame _).port]
  simp [beforeMaster, rcUpdate_eq, commCondition]

@[simp] theorem controlCycle_inp (s : State) : (controlCycle s).inp = s.inp := by
  rw [controlCycle_eq, (masterUpdate_frame _).inp]
  simp [beforeMaster, rcUpdate_eq, commCondition]

@[simp] theorem controlCycle_order (s : State) : (controlCycle s).rc.order = s.rc.order := by
  rw [controlCycle_eq, (masterUpdate_frame _).rc, beforeMaster_order]

@[simp] theorem controlCycle_bcast (s : State) : (controlCycle s).rc.bcast = s.rc.bcast := by
  rw [controlCycle_eq, (masterUpdate_frame _).rc, beforeMaster_bcast]

/-- The actuator after a cycle is what the arbiter computes from the state after it. -/
theorem controlCycle_duty (s : State) : (controlCycle s).rc.duty = arbitrate (controlCycle s) := by
  rw [controlCycle_eq, (masterUpdate_frame _).rc, beforeMaster_duty]
  refine arbitrate_congr (fun i => ?_) ?_ ?_
  · rw [(masterUpdate_frame (beforeMaster s)).unit i]
    exact ⟨rfl, rfl⟩
  · rw [(masterUpdate_frame _).rc]
  · rw [(masterUpdate_frame _).cfg]

end Sys2Proof.Machine
end

