-- ==== Sys2Proof/Laws/Detect.lean ====
section
/-!
SUPPORT. What telemetry, debounce and latching do to a unit in a control cycle, and what follows from it for the unit after its
update (40_unit_controller.md R75, R76, 60_exceptions.md R110 to R113).
-/
namespace Sys2Proof.Machine

/-- The sample a unit's update reads (40_unit_controller.md R76). -/
def selectedSample (s : State) (i : Chan) : ChannelSample :=
  if (s.unit i).sim then chanAt s.inp.sim i else chanAt s.inp.phys i

/-- The debounced level of class k rises from u to v. -/
def rises (u v : UnitState) (k : FaultClass) : Bool := !(u.debOf k).level && (v.debOf k).level

theorem debAt_debounceAll (cfg : Config) (commLost : Bool) (now : Time) (smp : ChannelSample) (s0 : UState)
    (deb : Vector Debounce 5) (k : FaultClass) :
    debAt (debounceAll cfg commLost now smp s0 deb) k =
      debounce (debAt deb k) (rawCondition k commLost smp s0) now (debWindow cfg k) := by
  cases k <;> rfl

/-- `v` is unit i after telemetry, debounce and latching, before its transition. -/
structure Detected (s : State) (i : Chan) (v : UnitState) : Prop where
  update : cycleUnit s i =
    if (s.unit i).state = .unknown ∨ (v.faults ≠ 0#5 ∧ (s.unit i).state ≠ .fault) then enterFault s.now v
    else commit s.cfg s.now v
  id : v.id = (s.unit i).id
  state : v.state = (s.unit i).state
  amp : v.amp = (s.unit i).amp
  running : v.running = (s.unit i).running
  sim : v.sim = (s.unit i).sim
  startCount : v.startCount = (s.unit i).startCount
  startOut : v.startOut = (s.unit i).startOut
  resetOut : v.resetOut = (s.unit i).resetOut
  pending : v.pending = (s.unit i).pending
  pulse : v.pulse = (s.unit i).pulse
  tState : v.tState = (s.unit i).tState
  inj : v.inj = 0
  faults : ∀ k, hasClass v.faults k =
    (hasClass (s.unit i).faults k || hasClass (s.unit i).inj k || rises (s.unit i) v k)
  faultCount : v.faultCount = (s.unit i).faultCount + BitVec.ofNat 16 (FaultClass.all.filter fun k =>
    !(hasClass (s.unit i).faults k) && (hasClass (s.unit i).inj k || rises (s.unit i) v k)).length
  deb : ∀ k, v.debOf k = debounce ((s.unit i).debOf k)
    (rawCondition k (cycleCommLost s) (selectedSample s i) (s.unit i).state) s.now (debWindow s.cfg k)
  powerW : v.powerW = powerFromRaw s.cfg (selectedSample s i).powerRaw
  freqHz : v.freqHz =
    if (selectedSample s i).windowMs ≠ 0#16 then freqOf (selectedSample s i) else (s.unit i).freqHz
  locked : v.locked = (selectedSample s i).lock
  commOk : v.commOk = !(cycleCommLost s)

/-- Every unit of every cycle is detected so. -/
theorem exists_detected (s : State) (i : Chan) : ∃ v, Detected s i v := by
  generalize hsm : selectedSample s i = smp
  let u1 := telemetry s.cfg (cycleCommLost s) smp (s.unit i)
  have hnew : ∀ deb, newFaults u1 deb = faultSet fun k => !(hasClass (s.unit i).faults k) &&
      (hasClass (s.unit i).inj k || (!(debAt (s.unit i).deb k).level && (debAt deb k).level)) := by
    intro deb
    unfold newFaults
    congr 1
    funext k
    show (((!(debAt (s.unit i).deb k).level && (debAt deb k).level) || hasClass (s.unit i).inj k) && _) = _
    rw [Bool.and_comm, Bool.or_comm (_ && _)]
    rfl
  refine ⟨detect s.cfg (cycleCommLost s) s.now smp (s.unit i).state u1, ?_⟩
  constructor <;> try rfl
  case update => subst hsm; rfl
  case faults =>
    intro k
    show hasClass ((s.unit i).faults ||| newFaults u1 _) k = _
    rw [hnew, hasClass_or, hasClass_faultSet]
    cases hasClass (s.unit i).faults k <;> rfl
  case faultCount =>
    show (s.unit i).faultCount + BitVec.ofNat 16 (classCount (newFaults u1 _)) = _
    rw [hnew, classCount]
    congr 4
    funext k
    rw [hasClass_faultSet]
    rfl
  case deb => rw [hsm]; intro k; exact debAt_debounceAll ..
  case powerW => rw [hsm]; rfl
  case freqHz => rw [hsm]; rfl
  case locked => rw [hsm]; rfl

/-- Fault entry, or the transition of the state at the update's start with no fault that would force entry. -/
theorem Detected.cases {s : State} {i : Chan} {v : UnitState} (d : Detected s i v) :
    (cycleUnit s i = enterFault s.now v ∧
      ((s.unit i).state = .unknown ∨ (v.faults ≠ 0#5 ∧ (s.unit i).state ≠ .fault))) ∨
    (cycleUnit s i = commit s.cfg s.now v ∧ (s.unit i).state ≠ .unknown ∧
      ((s.unit i).state = .fault ∨ v.faults = 0#5)) := by
  rw [d.update]
  split
  · next h => exact .inl ⟨rfl, h⟩
  · next h =>
    push Not at h
    refine .inr ⟨rfl, h.1, ?_⟩
    by_cases hv : v.faults = 0#5
    · exact .inr hv
    · exact .inl (h.2 hv)

/-- A unit in FAULT takes the fault exit. -/
theorem Detected.ofFault {s : State} {i : Chan} {v : UnitState} (d : Detected s i v) (h : (s.unit i).state = .fault) :
    cycleUnit s i = faultExit s.cfg s.now v := by
  rw [d.update, if_neg (by simp [h])]
  unfold commit
  rw [d.state, h]

/-- What the transition leaves as detection set it. -/
theorem Detected.kept {s : State} {i : Chan} {v : UnitState} (d : Detected s i v) :
    (cycleUnit s i).id = v.id ∧ (cycleUnit s i).amp = v.amp ∧ (cycleUnit s i).sim = v.sim ∧
    (cycleUnit s i).deb = v.deb ∧ (cycleUnit s i).inj = v.inj ∧ (cycleUnit s i).faultCount = v.faultCount ∧
    (cycleUnit s i).powerW = v.powerW ∧ (cycleUnit s i).freqHz = v.freqHz ∧ (cycleUnit s i).locked = v.locked ∧
    (cycleUnit s i).commOk = v.commOk ∧ ((s.unit i).state ≠ .fault → (cycleUnit s i).faults = v.faults) := by
  rw [← d.state, d.update]
  split
  · simp [enterFault]
  · simp only [commit, faultExit, leaveFault, commitStop]
    (repeat' split) <;> simp_all

end Sys2Proof.Machine
end

