-- ==== Sys2Proof/Laws/Encode.lean ====
section
/-!
SUPPORT. The fields of an assembled command word (30_encoding.md R52).
-/
namespace Sys2Proof

variable (op : BitVec 8) (idx msk : BitVec 4) (dat : BitVec 16)

@[simp] theorem opField_wordOf : opField (wordOf op idx msk dat) = op := by
  ext i hi
  simp only [opField, wordOf, BitVec.getElem_extractLsb', BitVec.getLsbD_append]
  grind

@[simp] theorem idxField_wordOf : idxField (wordOf op idx msk dat) = idx := by
  ext i hi
  simp only [idxField, wordOf, BitVec.getElem_extractLsb', BitVec.getLsbD_append]
  grind

@[simp] theorem mskField_wordOf : mskField (wordOf op idx msk dat) = msk := by
  ext i hi
  simp only [mskField, wordOf, BitVec.getElem_extractLsb', BitVec.getLsbD_append]
  grind

@[simp] theorem datField_wordOf : datField (wordOf op idx msk dat) = dat := by
  ext i hi
  simp only [datField, wordOf, BitVec.getElem_extractLsb', BitVec.getLsbD_append]
  grind

end Sys2Proof
end

