-- ==== Sys2Proof/Laws/Exec.lean ====
section
/-!
SUPPORT. The inversion of exec: a next state is a rejection, which writes the result word alone, or the accepted effect of the
command, under the command's guards.
-/
namespace Sys2Proof.Machine

/-- `Accepted i s v x`: command i is accepted in s, returns v, and leaves the block as x (but for the result word). -/
inductive Accepted : Instr → State → BitVec 16 → State → Prop
  | nop (s : State) : Accepted .nop s 0 s
  | init (s : State) : Accepted .init s 0 (afterInit s.now s)
  | tick (s : State) (hi : s.sys.initialized = true) :
      Accepted .tick s (packedStates (controlCycle s)) (controlCycle s)
  | readReg (s : State) (dat v : BitVec 16) (hr : regRead s dat = some v) : Accepted (.readReg dat) s v s
  | start (s : State) (idx : BitVec 4) (i : Chan) (hi : s.sys.initialized = true) (hc : chanOf idx = some i)
      (hg : startGate s.m = none) (hs : uStartOk (s.unit i) = true) : Accepted (.start idx) s 0 (s.onUnit i uStart)
  | stop (s : State) (idx : BitVec 4) (i : Chan) (hi : s.sys.initialized = true) (hc : chanOf idx = some i)
      (hs : uStopOk (s.unit i) = true) : Accepted (.stop idx) s 0 (s.onUnit i uStop)
  | setAmp (s : State) (idx : BitVec 4) (dat : BitVec 16) (i : Chan) (hi : s.sys.initialized = true)
      (hc : chanOf idx = some i) : Accepted (.setAmp idx dat) s 0 (setSetpoint (amp16 dat) s i)
  | resetOvl (s : State) (idx : BitVec 4) (i : Chan) (hi : s.sys.initialized = true) (hc : chanOf idx = some i)
      (hs : resetOvlOk (s.unit i) = true) :
      Accepted (.resetOvl idx) s 0 (s.onUnit i fun u => { u with pending := .reset })
  | clearFaults (s : State) (idx : BitVec 4) (i : Chan) (hi : s.sys.initialized = true) (hc : chanOf idx = some i)
      (hs : clearFaultsOk (s.unit i) = true) :
      Accepted (.clearFaults idx) s 0 (s.onUnit i fun u => { u with pending := .clear })
  | getStatus (s : State) (idx : BitVec 4) (i : Chan) (hc : chanOf idx = some i) :
      Accepted (.getStatus idx) s (statusWord (s.unit i)) s
  | isSafe (s : State) (idx : BitVec 4) (i : Chan) (hc : chanOf idx = some i) :
      Accepted (.isSafe idx) s ((BitVec.ofBool (safe (s.unit i))).setWidth 16) s
  | ampBcast (s : State) (dat : BitVec 16) (hi : s.sys.initialized = true) :
      Accepted (.ampBcast dat) s 0
        { s with
          u := perChan fun j => { s.unit j with amp := amp16 dat }
          rc := { s.rc with order := [3, 2, 1, 0], bcast := amp16 dat } }
  | coordStart (s : State) (msk : ChanMask) (hi : s.sys.initialized = true) (hv : chanSetValid msk = true)
      (hg : startGate s.m = none) (hm : s.m.state = .idle)
      (hs : ∀ j : Chan, hasChan msk j = true → uStartOk (s.unit j) = true) :
      Accepted (.coordStart msk) s 0
        { s with
          u := perChan fun j => if hasChan msk j then uStart (s.unit j) else s.unit j
          m := { s.m with state := .coordinatedStart, active := msk, confirmed := 0, tStartSeq := s.now } }
  | confirm (s : State) (idx : BitVec 4) (i : Chan) (hi : s.sys.initialized = true) (hc : chanOf idx = some i)
      (hm : s.m.state = .coordinatedStart) (ha : hasChan s.m.active i = true) (hs : (s.unit i).state = .running) :
      Accepted (.confirm idx) s 0 { s with m := { s.m with confirmed := s.m.confirmed ||| chanBit i } }
  | coordStop (s : State) (msk : ChanMask) (hi : s.sys.initialized = true) (hv : chanSetValid msk = true)
      (hm : s.m.state = .running ∨ s.m.state = .coordinatedStart) : Accepted (.coordStop msk) s 0 (stopChannels msk s)
  | unitStart (s : State) (idx : BitVec 4) (i : Chan) (hi : s.sys.initialized = true) (hc : chanOf idx = some i)
      (hg : startGate s.m = none) (hm : s.m.state = .running) (hs : uStartOk (s.unit i) = true) :
      Accepted (.unitStart idx) s 0
        { s.onUnit i uStart with m := { s.m with active := s.m.active ||| chanBit i } }
  | unitStop (s : State) (idx : BitVec 4) (i : Chan) (hi : s.sys.initialized = true) (hc : chanOf idx = some i)
      (hm : s.m.state = .running) : Accepted (.unitStop idx) s 0 (stopChannels (chanBit i) s)
  | reportRecorded (s : State) (idx : BitVec 4) (dat : BitVec 16) (i : Chan) (hi : s.sys.initialized = true)
      (hc : chanOf idx = some i) (hv : fmask5Valid dat = true) (hm : s.m.state = .emergencyStop) :
      Accepted (.reportFault idx dat) s 0
        { s with m := { s.m with
            faulted := s.m.faulted ||| chanBit i
            lastFault := ⟨true, false, BitVec.ofNat 2 i.val, fmask5 dat⟩ } }
  | reportIsolated (s : State) (idx : BitVec 4) (dat : BitVec 16) (i : Chan) (hi : s.sys.initialized = true)
      (hc : chanOf idx = some i) (hv : fmask5Valid dat = true) (hm : s.m.state ≠ .emergencyStop) :
      Accepted (.reportFault idx dat) s 0 (isolate (some i) (fmask5 dat) false s)
  | estop (s : State) (hi : s.sys.initialized = true) :
      Accepted .estop s 0
        { s with
          u := perChan fun j => uEstop s.now (s.unit j)
          rc := { s.rc with duty := 0 }
          m := { s.m with state := .emergencyStop, active := 0, confirmed := 0, stopWait := 0 } }
  | setInhibit (s : State) (dat : BitVec 16) (hi : s.sys.initialized = true) (hv : bool1Valid dat = true) :
      Accepted (.setInhibit dat) s 0 { s with m := { s.m with inhibit := bool1 dat } }
  | rearm (s : State) (hi : s.sys.initialized = true) (hm : s.m.state = .faultIsolation)
      (hs : ∀ j : Chan, rearmable (s.unit j) = true) :
      Accepted .rearm s 0 { s with m := { s.m with state := .idle, faulted := 0 } }
  | setSim (s : State) (idx : BitVec 4) (dat : BitVec 16) (i : Chan) (hd : s.cfg.diagPresent = true)
      (hi : s.sys.initialized = true) (hc : chanOf idx = some i) (hv : bool1Valid dat = true) :
      Accepted (.setSim idx dat) s 0 (s.onUnit i fun u => { u with sim := bool1 dat })
  | injectFault (s : State) (idx : BitVec 4) (dat : BitVec 16) (i : Chan) (hd : s.cfg.diagPresent = true)
      (hi : s.sys.initialized = true) (hc : chanOf idx = some i) (hv : fmask5Valid dat = true) :
      Accepted (.injectFault idx dat) s 0 (s.onUnit i fun u => { u with inj := u.inj ||| fmask5 dat })
  | forceState (s : State) (idx : BitVec 4) (dat : BitVec 16) (i : Chan) (hd : s.cfg.diagPresent = true)
      (hi : s.sys.initialized = true) (hc : chanOf idx = some i) (hv : state3Valid dat = true)
      (hg : forcedRunning (UState.ofOperand dat) = true → startGate s.m = none) :
      Accepted (.forceState idx dat) s 0 (s.onUnit i (forceUnit s.now (UState.ofOperand dat)))

/-- The state a rejection leaves: the result word alone is written (60_exceptions.md R108). -/
def Rejected (s t : State) : Prop := ∃ c : ResultCode, c ≠ .ok ∧ t = { s with result := some (resultWord 0 c) }

/-- The state an accepted command leaves, its result word written. -/
def Completed (i : Instr) (s t : State) : Prop :=
  ∃ v x, Accepted i s v x ∧ t = { x with result := some (resultWord v .ok) }

theorem startGate_ne_ok {m : McState} {c : ResultCode} (h : startGate m = some c) : c ≠ .ok := by
  unfold startGate at h
  split at h
  · simp only [Option.some.injEq] at h; subst h; decide
  · split at h
    · simp only [Option.some.injEq] at h; subst h; decide
    · simp at h

section Peel
variable {s t : State} {P : Prop} {k : Answer}

/-- Peel off one check: a rejection is a rejection, the rest goes on. -/
theorem peelDiag (h : ifDiag s k = .next t) (hk : s.cfg.diagPresent = true → k = .next t → Rejected s t ∨ P) :
    Rejected s t ∨ P := by
  rcases ifDiag_next h with ⟨a, b⟩ | ⟨-, e⟩
  · exact hk a b
  · exact .inl ⟨_, by decide, e⟩

theorem peelInit (h : ifInit s k = .next t) (hk : s.sys.initialized = true → k = .next t → Rejected s t ∨ P) :
    Rejected s t ∨ P := by
  rcases ifInit_next h with ⟨a, b⟩ | ⟨-, e⟩
  · exact hk a b
  · exact .inl ⟨_, by decide, e⟩

theorem peelChannel {idx : BitVec 4} {k : Chan → Answer} (h : onChannel s idx k = .next t)
    (hk : ∀ i, chanOf idx = some i → k i = .next t → Rejected s t ∨ P) : Rejected s t ∨ P := by
  rcases onChannel_next h with ⟨i, a, b⟩ | ⟨-, e⟩
  · exact hk i a b
  · exact .inl ⟨_, by decide, e⟩

theorem peelValue {b : Bool} (h : ifValue s b k = .next t) (hk : b = true → k = .next t → Rejected s t ∨ P) :
    Rejected s t ∨ P := by
  rcases ifValue_next h with ⟨a, b⟩ | ⟨-, e⟩
  · exact hk a b
  · exact .inl ⟨_, by decide, e⟩

theorem peelState {b : Bool} (h : ifState s b k = .next t) (hk : b = true → k = .next t → Rejected s t ∨ P) :
    Rejected s t ∨ P := by
  rcases ifState_next h with ⟨a, b⟩ | ⟨-, e⟩
  · exact hk a b
  · exact .inl ⟨_, by decide, e⟩

theorem peelStart (h : ifStartAllowed s k = .next t) (hk : startGate s.m = none → k = .next t → Rejected s t ∨ P) :
    Rejected s t ∨ P := by
  rcases ifStartAllowed_next h with ⟨a, b⟩ | ⟨c, hc, e⟩
  · exact hk a b
  · exact .inl ⟨c, startGate_ne_ok hc, e⟩

end Peel

/-- An accepted effect answered is a completion. -/
theorem completed_of_accept {i : Instr} {s x t : State} {v : BitVec 16} (h : x.accept v = .next t) (ha : Accepted i s v x) :
    Completed i s t := ⟨v, x, ha, (accept_eq_next x t v).mp h⟩

/-- Everything a command can do: if exec answers a next state, the command was rejected and wrote the result word alone, or
it was accepted under its guards with its effect. -/
theorem exec_next {i : Instr} {s t : State} (h : exec i s = .next t) : Rejected s t ∨ Completed i s t := by
  cases i with
  | nop => exact .inr (completed_of_accept h (.nop s))
  | init => exact .inr (completed_of_accept h (.init s))
  | tick => exact peelInit h fun hi h => .inr (completed_of_accept h (.tick s hi))
  | readReg dat =>
    simp only [exec, execReadReg] at h
    split at h
    · next v hv => exact .inr (completed_of_accept h (.readReg s dat v hv))
    · exact .inl ⟨_, by decide, (reject_eq_next _ _ _).mp h⟩
  | start idx =>
    exact peelInit h fun hi h => peelChannel h fun i hc h => peelStart h fun hg h => peelState h fun hs h =>
      .inr (completed_of_accept h (.start s idx i hi hc hg hs))
  | stop idx =>
    exact peelInit h fun hi h => peelChannel h fun i hc h => peelState h fun hs h =>
      .inr (completed_of_accept h (.stop s idx i hi hc hs))
  | setAmp idx dat =>
    exact peelInit h fun hi h => peelChannel h fun i hc h => .inr (completed_of_accept h (.setAmp s idx dat i hi hc))
  | resetOvl idx =>
    exact peelInit h fun hi h => peelChannel h fun i hc h => peelState h fun hs h =>
      .inr (completed_of_accept h (.resetOvl s idx i hi hc hs))
  | clearFaults idx =>
    exact peelInit h fun hi h => peelChannel h fun i hc h => peelState h fun hs h =>
      .inr (completed_of_accept h (.clearFaults s idx i hi hc hs))
  | getStatus idx => exact peelChannel h fun i hc h => .inr (completed_of_accept h (.getStatus s idx i hc))
  | isSafe idx => exact peelChannel h fun i hc h => .inr (completed_of_accept h (.isSafe s idx i hc))
  | ampBcast dat =>
    refine peelInit h fun hi h => ?_
    dsimp only at h
    rw [foldl_setSetpoint] at h
    exact .inr (completed_of_accept h (.ampBcast s dat hi))
  | coordStart msk =>
    refine peelInit h fun hi h => peelValue h fun hv h => peelStart h fun hg h => peelState h fun hm h =>
      peelState h fun hs h => ?_
    dsimp only at h
    rw [foldl_onUnit_if] at h
    refine .inr (completed_of_accept h (.coordStart s msk hi hv hg (of_decide_eq_true hm) fun j hj => ?_))
    have := List.all_eq_true.mp hs j (mem_chans j)
    simpa [hj] using this
  | confirm idx =>
    refine peelInit h fun hi h => peelChannel h fun i hc h => peelState h fun hs h => ?_
    simp only [Bool.and_eq_true, decide_eq_true_eq] at hs
    exact .inr (completed_of_accept h (.confirm s idx i hi hc hs.1.1 hs.1.2 hs.2))
  | coordStop msk =>
    refine peelInit h fun hi h => peelValue h fun hv h => peelState h fun hs h => ?_
    simp only [Bool.or_eq_true, decide_eq_true_eq] at hs
    exact .inr (completed_of_accept h (.coordStop s msk hi hv hs))
  | unitStart idx =>
    refine peelInit h fun hi h => peelChannel h fun i hc h => peelStart h fun hg h => peelState h fun hm h =>
      peelState h fun hs h => ?_
    exact .inr (completed_of_accept h (.unitStart s idx i hi hc hg (of_decide_eq_true hm) hs))
  | unitStop idx =>
    exact peelInit h fun hi h => peelChannel h fun i hc h => peelState h fun hm h =>
      .inr (completed_of_accept h (.unitStop s idx i hi hc (of_decide_eq_true hm)))
  | reportFault idx dat =>
    refine peelInit h fun hi h => peelChannel h fun i hc h => peelValue h fun hv h => ?_
    split at h
    · next hm => exact .inr (completed_of_accept h (.reportRecorded s idx dat i hi hc hv hm))
    · next hm => exact .inr (completed_of_accept h (.reportIsolated s idx dat i hi hc hv hm))
  | estop =>
    refine peelInit h fun hi h => ?_
    dsimp only at h
    rw [foldl_uEstop] at h
    exact .inr (completed_of_accept h (.estop s hi))
  | setInhibit dat =>
    exact peelInit h fun hi h => peelValue h fun hv h => .inr (completed_of_accept h (.setInhibit s dat hi hv))
  | rearm =>
    refine peelInit h fun hi h => peelState h fun hm h => peelState h fun hs h => ?_
    exact .inr (completed_of_accept h (.rearm s hi (of_decide_eq_true hm) fun j =>
      List.all_eq_true.mp hs j (mem_chans j)))
  | setSim idx dat =>
    exact peelDiag h fun hd h => peelInit h fun hi h => peelChannel h fun i hc h => peelValue h fun hv h =>
      .inr (completed_of_accept h (.setSim s idx dat i hd hi hc hv))
  | injectFault idx dat =>
    exact peelDiag h fun hd h => peelInit h fun hi h => peelChannel h fun i hc h => peelValue h fun hv h =>
      .inr (completed_of_accept h (.injectFault s idx dat i hd hi hc hv))
  | forceState idx dat =>
    refine peelDiag h fun hd h => peelInit h fun hi h => peelChannel h fun i hc h => peelValue h fun hv h => ?_
    dsimp only at h
    split at h
    · exact peelStart h fun hg h =>
        .inr (completed_of_accept h (.forceState s idx dat i hd hi hc hv fun _ => hg))
    · next hf => exact .inr (completed_of_accept h (.forceState s idx dat i hd hi hc hv fun e => absurd e hf))

/-- Every command answers a next state. -/
theorem exec_answers (i : Instr) (s : State) : ∃ t, exec i s = .next t := by
  have hk : ∀ {k : Answer} {c : Bool} {r : ResultCode}, (∃ t, k = .next t) →
      ∃ t, (if c then k else s.reject r) = .next t := by
    intro k c r h
    cases c
    · exact ⟨_, rfl⟩
    · exact h
  have hch : ∀ {idx : BitVec 4} {k : Chan → Answer}, (∀ i, ∃ t, k i = .next t) → ∃ t, onChannel s idx k = .next t := by
    intro idx k h
    unfold onChannel
    split
    · exact h _
    · exact ⟨_, rfl⟩
  have hst : ∀ {k : Answer}, (∃ t, k = .next t) → ∃ t, ifStartAllowed s k = .next t := by
    intro k h
    unfold ifStartAllowed
    split
    · exact ⟨_, rfl⟩
    · exact h
  have ok : ∀ (x : State) (v : BitVec 16), ∃ t, x.accept v = .next t := fun _ _ => ⟨_, rfl⟩
  cases i with
  | nop => exact ok _ _
  | init => exact ok _ _
  | tick => exact hk (ok _ _)
  | readReg dat =>
    simp only [exec, execReadReg]
    split
    · exact ok _ _
    · exact ⟨_, rfl⟩
  | start idx => exact hk (hch fun _ => hst (hk (ok _ _)))
  | stop idx => exact hk (hch fun _ => hk (ok _ _))
  | setAmp idx dat => exact hk (hch fun _ => ok _ _)
  | resetOvl idx => exact hk (hch fun _ => hk (ok _ _))
  | clearFaults idx => exact hk (hch fun _ => hk (ok _ _))
  | getStatus idx => exact hch fun _ => ok _ _
  | isSafe idx => exact hch fun _ => ok _ _
  | ampBcast dat => exact hk (ok _ _)
  | coordStart msk => exact hk (hk (hst (hk (hk (ok _ _)))))
  | confirm idx => exact hk (hch fun _ => hk (ok _ _))
  | coordStop msk => exact hk (hk (hk (ok _ _)))
  | unitStart idx => exact hk (hch fun _ => hst (hk (hk (ok _ _))))
  | unitStop idx => exact hk (hch fun _ => hk (ok _ _))
  | reportFault idx dat =>
    refine hk (hch fun _ => hk ?_)
    split
    · exact ok _ _
    · exact ok _ _
  | estop => exact hk (ok _ _)
  | setInhibit dat => exact hk (hk (ok _ _))
  | rearm => exact hk (hk (hk (ok _ _)))
  | setSim idx dat => exact hk (hk (hch fun _ => hk (ok _ _)))
  | injectFault idx dat => exact hk (hk (hch fun _ => hk (ok _ _)))
  | forceState idx dat =>
    refine hk (hk (hch fun _ => hk ?_))
    dsimp only
    split
    · exact hst (ok _ _)
    · exact ok _ _

end Sys2Proof.Machine
end

