-- ==== Sys2Proof/Laws/Guards.lean ====
section
/-!
SUPPORT. The checks of the commands in the terms of Sys2Proof/Safety.lean.
-/
namespace Sys2Proof.Machine

open Sys2Proof.Safety

@[simp] theorem chanOf_idxOf (i : Chan) : chanOf (idxOf i) = some i := by
  fin_cases i <;> rfl

theorem uStartOk_iff (u : UnitState) : uStartOk u = true ↔ CanStart u := by
  simp [uStartOk, and_assoc]

theorem uStopOk_iff (u : UnitState) : uStopOk u = true ↔ CanStop u := by
  simp [uStopOk]

theorem latchedClear_iff (u : UnitState) : latchedClear u = true ↔ LatchedLevelsLow u := by
  simp only [latchedClear, LatchedLevelsLow, List.all_eq_true]
  constructor
  · intro h k hk
    have := h k (by cases k <;> simp [FaultClass.all])
    simpa [hk] using this
  · intro h k _
    cases hk : hasClass u.faults k
    · simp
    · simp [h k hk]

theorem ovlResettable_iff (u : UnitState) : ovlResettable u = true ↔ u.faults = 1#5 ∧ (u.debOf .ovl).level = false := by
  simp [ovlResettable, FaultClass.bit, FaultClass.index]

theorem resetOvlOk_iff (u : UnitState) : resetOvlOk u = true ↔ CanResetOvl u := by
  simp [resetOvlOk, ovlResettable_iff, and_assoc]

theorem clearFaultsOk_iff (u : UnitState) : clearFaultsOk u = true ↔ CanClearFaults u := by
  simp only [clearFaultsOk, latchedClear_iff, Bool.and_eq_true, CanClearFaults]
  simp [FaultClass.bit, FaultClass.index, and_assoc]

theorem startGate_none_iff (m : McState) : startGate m = none ↔ StartsAllowed m := startGate_eq_none

end Sys2Proof.Machine
end

