-- ==== Sys2Proof/Laws/Master.lean ====
section
/-!
SUPPORT. What the master update (42_master_coordinator.md R99) does: stops to the units, and fault polling channel by channel.
-/
namespace Sys2Proof.Machine

open Sys2Proof.Safety

/-- `w` is `u` after any number of UStops. -/
inductive Stopped (u : UnitState) : UnitState → Prop
  | none : Stopped u u
  | stop {v : UnitState} (h : Stopped u v) : Stopped u (uStop v)

theorem Stopped.isolated {s t : State} (h : ∀ i, Stopped (s.unit i) (t.unit i)) (c : Option Chan) (f : FaultMask)
    (b : Bool) (i : Chan) : Stopped (s.unit i) ((isolate c f b t).unit i) := by
  rw [isolate_eq]
  simp only [unit_mk, chanAt_perChan]
  exact (h i).stop

theorem Stopped.polled {s : State} (l : List Chan) : ∀ t : State, (∀ i, Stopped (s.unit i) (t.unit i)) →
    ∀ i, Stopped (s.unit i) ((l.foldl pollFault t).unit i) := by
  induction l with
  | nil => exact fun _ h => h
  | cons a l ih =>
    intro t h
    apply ih
    rcases pollFault_cases t a with e | ⟨e, -, -⟩ <;> rw [e]
    · exact h
    · exact Stopped.isolated h _ _ _

theorem masterUpdate_stopped (s : State) (i : Chan) : Stopped (s.unit i) ((masterUpdate s).unit i) := by
  have h := Stopped.polled (s := s) chans s (fun i => .none)
  unfold masterUpdate
  generalize chans.foldl pollFault s = s1 at h
  dsimp only
  split
  · exact .none
  split
  · exact h i
  split
  · exact h i
  split
  · exact Stopped.isolated (t := { s1 with m := completeStart (pollProgress s1) }) h _ _ _ i
  · exact h i

/-- After a cycle a unit is its own update, then stopped or not. -/
theorem controlCycle_stopped (s : State) (i : Chan) : Stopped (cycleUnit s i) ((controlCycle s).unit i) := by
  have := masterUpdate_stopped (beforeMaster s) i
  rwa [beforeMaster_unit, ← controlCycle_eq] at this

/-- Stops leave a unit as it is, cancel a start not yet committed, or latch a stop. -/
theorem Stopped.cases {u w : UnitState} (h : Stopped u w) :
    w = u ∨ (w = { u with pending := w.pending } ∧
      ((u.state = .idle ∧ u.pending = .start ∧ w.pending = .none) ∨
        ((u.state = .starting ∨ u.state = .running) ∧ (u.pending = .none ∨ u.pending = .stop) ∧ w.pending = .stop))) := by
  induction h with
  | none => exact .inl rfl
  | @stop v h ih =>
    by_cases hs : uStopOk v = true
    · have e : uStop v = { v with pending := if v.state = .idle then .none else .stop } := by
        simp only [uStop, hs, if_true]
      have hst : v.state = u.state := by
        rcases ih with rfl | ⟨q, -⟩
        · rfl
        · rw [q]
      simp only [uStopOk_iff] at hs
      rw [e, hst]
      right
      rcases ih with rfl | ⟨q, ih⟩
      · refine ⟨rfl, ?_⟩
        rcases hs with ⟨h1 | h1, h2 | h2⟩ | ⟨h1, h2⟩ <;> simp [h1, h2]
      · refine ⟨by rw [q], ?_⟩
        rw [CanStop, hst] at hs
        rcases ih with ⟨a, b, c⟩ | ⟨a, b, c⟩
        · simp [a, c] at hs
        · exact .inr ⟨a, b, by rcases a with a | a <;> simp [a]⟩
    · have e : uStop v = v := by
        simp only [uStop, hs]
        rfl
      rw [e]
      exact ih

/-- A second stop changes nothing. -/
theorem uStop_uStop (u : UnitState) : uStop (uStop u) = uStop u := by
  by_cases hs : uStopOk u = true
  · have h := (uStopOk_iff u).1 hs
    rcases h with ⟨h1 | h1, h2 | h2⟩ | ⟨h1, h2⟩ <;> simp [uStop, uStopOk, h1, h2]
  · simp [uStop, hs]

/-- The MC's record after it isolates channel i (42_master_coordinator.md R89). -/
def isolatedRecord (m : McState) (i : Chan) (f : FaultMask) : McState :=
  { m with
    state := .faultIsolation
    faulted := m.faulted ||| chanBit i
    lastFault := ⟨true, false, BitVec.ofNat 2 i.val, f⟩
    active := 0
    confirmed := 0
    stopWait := 0 }

/-- `t` is `s` after fault polling of the channels of the list, the last polled first. -/
inductive Polled (s : State) : List Chan → State → Prop
  | none : Polled s [] s
  | hit {l : List Chan} {t : State} (i : Chan) (h : Polled s l t) (hn : NewlyFaulted s.m i (s.unit i)) :
      Polled s (i :: l)
        { t with u := perChan fun j => uStop (t.unit j), m := isolatedRecord t.m i (s.unit i).faults }
  | miss {l : List Chan} {t : State} (i : Chan) (h : Polled s l t) (hn : ¬ NewlyFaulted s.m i (s.unit i)) :
      Polled s (i :: l) t

/-- Polling leaves the units' states and faults. -/
theorem Polled.unit {s t : State} {l : List Chan} (h : Polled s l t) (j : Chan) :
    (t.unit j).state = (s.unit j).state ∧ (t.unit j).faults = (s.unit j).faults := by
  induction h with
  | none => exact ⟨rfl, rfl⟩
  | hit i h hn ih =>
    simp only [unit_mk, chanAt_perChan]
    rw [uStop_eq]
    exact ih
  | miss i h hn ih => exact ih

/-- Polling adds exactly the newly faulted channels to `m.faulted`. -/
theorem Polled.faulted {s t : State} {l : List Chan} (h : Polled s l t) (j : Chan) :
    hasChan t.m.faulted j = true ↔ hasChan s.m.faulted j = true ∨ (j ∈ l ∧ NewlyFaulted s.m j (s.unit j)) := by
  induction h with
  | none => simp
  | hit i h hn ih =>
    simp only [isolatedRecord, hasChan_or, hasChan_chanBit, Bool.or_eq_true, ih, decide_eq_true_eq, List.mem_cons]
    constructor
    · rintro ((h | h) | rfl)
      · exact .inl h
      · exact .inr ⟨.inr h.1, h.2⟩
      · exact .inr ⟨.inl rfl, hn⟩
    · rintro (h | ⟨rfl | h1, h2⟩)
      · exact .inl (.inl h)
      · exact .inr rfl
      · exact .inl (.inr ⟨h1, h2⟩)
  | miss i h hn ih =>
    rw [ih, List.mem_cons]
    constructor
    · rintro (h | h)
      · exact .inl h
      · exact .inr ⟨.inr h.1, h.2⟩
    · rintro (h | ⟨rfl | h1, h2⟩)
      · exact .inl h
      · exact absurd h2 hn
      · exact .inr ⟨h1, h2⟩

/-- Polling keeps the sequence timers. -/
theorem Polled.timers {s t : State} {l : List Chan} (h : Polled s l t) :
    t.m.tStartSeq = s.m.tStartSeq ∧ t.m.tStopSeq = s.m.tStopSeq := by
  induction h with
  | none => exact ⟨rfl, rfl⟩
  | hit _ _ _ ih => exact ih
  | miss _ _ _ ih => exact ih

/-- With no newly faulted channel polling changes nothing. -/
theorem Polled.eq_self {s t : State} {l : List Chan} (h : Polled s l t)
    (hl : ∀ j ∈ l, ¬ NewlyFaulted s.m j (s.unit j)) : t = s := by
  induction h with
  | none => rfl
  | hit i h hn ih => exact absurd hn (hl i (by simp))
  | miss i h hn ih => exact ih fun j hj => hl j (by simp [hj])

/-- With a newly faulted channel polling isolates: the sequence is dropped, and every unit that could stop has been stopped. -/
theorem Polled.isolates {s t : State} {l : List Chan} (h : Polled s l t) (hl : ∃ j ∈ l, NewlyFaulted s.m j (s.unit j)) :
    t.m.state = .faultIsolation ∧ t.m.active = 0 ∧ t.m.confirmed = 0 ∧ t.m.stopWait = 0 ∧ t.m.inhibit = s.m.inhibit ∧
      ∀ j, uStop (t.unit j) = t.unit j := by
  induction h with
  | none => simp at hl
  | @hit l t i h hn ih =>
    refine ⟨rfl, rfl, rfl, rfl, ?_, fun j => ?_⟩
    · by_cases hq : ∃ j ∈ l, NewlyFaulted s.m j (s.unit j)
      · exact (ih hq).2.2.2.2.1
      · push Not at hq
        rw [h.eq_self (by simpa using hq)]
        rfl
    · simp only [unit_mk, chanAt_perChan, uStop_uStop]
  | miss i h hn ih =>
    obtain ⟨j, hj, hf⟩ := hl
    rcases List.mem_cons.1 hj with rfl | hj
    · exact absurd hf hn
    · exact ih ⟨j, hj, hf⟩

/-- `last_fault` names the newly faulted channel polled last. -/
theorem Polled.lastFault {s t : State} {l : List Chan} (h : Polled s l t) (i : Chan) (hi : i ∈ l)
    (hn : NewlyFaulted s.m i (s.unit i)) (hl : l.Pairwise (· > ·)) (hm : ∀ j, i < j → ¬ NewlyFaulted s.m j (s.unit j)) :
    t.m.lastFault = ⟨true, false, BitVec.ofNat 2 i.val, (s.unit i).faults⟩ := by
  induction h with
  | none => simp at hi
  | hit k h hk ih =>
    have : i = k := by
      rcases List.mem_cons.1 hi with rfl | hi
      · rfl
      · exact absurd hk (hm k (List.rel_of_pairwise_cons hl hi))
    subst this
    rfl
  | miss k h hk ih =>
    rcases List.mem_cons.1 hi with rfl | hi
    · exact absurd hn hk
    · exact ih hi (List.pairwise_cons.1 hl).2

/-- One more channel polled. -/
theorem Polled.step {s t : State} {l : List Chan} (h : Polled s l t) (i : Chan) (hi : i ∉ l) :
    Polled s (i :: l) (pollFault t i) := by
  have hu := h.unit i
  have hf := h.faulted i
  simp only [hi, false_and, or_false] at hf
  by_cases hn : NewlyFaulted s.m i (s.unit i)
  · have : pollFault t i = isolate (some i) (t.unit i).faults false t := by
      unfold pollFault
      rw [if_pos]
      refine ⟨by rw [hu.1]; exact hn.1, ?_⟩
      simp only [hn.2] at hf
      simpa using hf
    rw [this, isolate_eq, hu.2]
    exact .hit i h hn
  · have : pollFault t i = t := by
      unfold pollFault
      rw [if_neg]
      rintro ⟨h1, h2⟩
      refine hn ⟨by rw [← hu.1]; exact h1, ?_⟩
      simp only [h2] at hf
      simpa using hf
    rw [this]
    exact .miss i h hn

/-- Everything fault polling of the four channels does. -/
theorem polled_all (s : State) : Polled s [3, 2, 1, 0] (chans.foldl pollFault s) := by
  have h0 := Polled.step (.none (s := s)) 0 (by decide)
  have h1 := h0.step 1 (by decide)
  have h2 := h1.step 2 (by decide)
  have h3 := h2.step 3 (by decide)
  simp only [chans, List.foldl_cons, List.foldl_nil]
  exact h3

theorem mem_polled (i : Chan) : i ∈ ([3, 2, 1, 0] : List Chan) := by
  fin_cases i <;> simp

/-- With no newly faulted channel, the master update starts from the state itself. -/
theorem foldl_pollFault_none (s : State) (h : ∀ i, ¬ NewlyFaulted s.m i (s.unit i)) : chans.foldl pollFault s = s :=
  (polled_all s).eq_self fun j _ => h j

/-- With a newly faulted channel, outside EMERGENCY_STOP, the master update is the polling alone. -/
theorem masterUpdate_fault (s : State) (hn : ∃ i, NewlyFaulted s.m i (s.unit i)) (he : s.m.state ≠ .emergencyStop) :
    masterUpdate s = chans.foldl pollFault s := by
  obtain ⟨i, hi⟩ := hn
  have h := (polled_all s).isolates ⟨i, mem_polled i, hi⟩
  unfold masterUpdate
  rw [if_neg he]
  dsimp only
  rw [if_pos h.1]

/-- With no newly faulted channel, everything the master update can do. -/
theorem masterUpdate_quiet (s : State) (hn : ∀ i, ¬ NewlyFaulted s.m i (s.unit i)) :
    masterUpdate s =
      if s.m.state = .emergencyStop ∨ s.m.state = .faultIsolation then s
      else if sequenceDone (pollProgress s) then { s with m := { pollProgress s with state := .idle } }
      else if sequenceTimeout s.cfg s.now (completeStart (pollProgress s)) then
        isolate none 0 true { s with m := completeStart (pollProgress s) }
      else { s with m := completeStart (pollProgress s) } := by
  unfold masterUpdate
  rw [foldl_pollFault_none s hn]
  by_cases he : s.m.state = .emergencyStop
  · simp only [he, true_or, if_true]
  by_cases hf : s.m.state = .faultIsolation
  · rw [if_neg he, if_pos hf, if_pos (.inr hf)]
  · simp only [he, hf, or_self, if_false]

/-- The completion writes the state alone. -/
theorem completeStart_eq (m : McState) : completeStart m = { m with state := (completeStart m).state } := by
  unfold completeStart
  split <;> rfl

end Sys2Proof.Machine
end

