-- ==== Sys2Proof/Laws/PerInstr.lean ====
section
/-!
SUPPORT. Every command's encoding carries the pattern of its row of spec/opcode_table.json, whatever its operands: the opcode,
and zero in every field the row does not use (30_encoding.md R56, R57).
-/
namespace Sys2Proof

/-- The `mask` column of spec/opcode_table.json. -/
def tableMask : Instr → Word
  | .nop => 0xFFFFFFFF#32
  | .init => 0xFFFFFFFF#32
  | .tick => 0xFFFFFFFF#32
  | .readReg _ => 0xFFFF0000#32
  | .start _ => 0xFF0FFFFF#32
  | .stop _ => 0xFF0FFFFF#32
  | .setAmp _ _ => 0xFF0F0000#32
  | .resetOvl _ => 0xFF0FFFFF#32
  | .clearFaults _ => 0xFF0FFFFF#32
  | .getStatus _ => 0xFF0FFFFF#32
  | .isSafe _ => 0xFF0FFFFF#32
  | .ampBcast _ => 0xFFFF0000#32
  | .coordStart _ => 0xFFF0FFFF#32
  | .confirm _ => 0xFF0FFFFF#32
  | .coordStop _ => 0xFFF0FFFF#32
  | .unitStart _ => 0xFF0FFFFF#32
  | .unitStop _ => 0xFF0FFFFF#32
  | .reportFault _ _ => 0xFF0F0000#32
  | .estop => 0xFFFFFFFF#32
  | .setInhibit _ => 0xFFFF0000#32
  | .rearm => 0xFFFFFFFF#32
  | .setSim _ _ => 0xFF0F0000#32
  | .injectFault _ _ => 0xFF0F0000#32
  | .forceState _ _ => 0xFF0F0000#32

/-- The `match` column of spec/opcode_table.json. -/
def tableMatch : Instr → Word
  | .nop => 0x00000000#32
  | .init => 0x01000000#32
  | .tick => 0x02000000#32
  | .readReg _ => 0x03000000#32
  | .start _ => 0x10000000#32
  | .stop _ => 0x11000000#32
  | .setAmp _ _ => 0x12000000#32
  | .resetOvl _ => 0x13000000#32
  | .clearFaults _ => 0x14000000#32
  | .getStatus _ => 0x15000000#32
  | .isSafe _ => 0x16000000#32
  | .ampBcast _ => 0x17000000#32
  | .coordStart _ => 0x20000000#32
  | .confirm _ => 0x21000000#32
  | .coordStop _ => 0x22000000#32
  | .unitStart _ => 0x23000000#32
  | .unitStop _ => 0x24000000#32
  | .reportFault _ _ => 0x25000000#32
  | .estop => 0x26000000#32
  | .setInhibit _ => 0x27000000#32
  | .rearm => 0x28000000#32
  | .setSim _ _ => 0x30000000#32
  | .injectFault _ _ => 0x31000000#32
  | .forceState _ _ => 0x32000000#32

/-- A command word masked field by field. -/
theorem wordOf_and (op op' : BitVec 8) (i i' m m' : BitVec 4) (d d' : BitVec 16) :
    wordOf op i m d &&& wordOf op' i' m' d' = wordOf (op &&& op') (i &&& i') (m &&& m') (d &&& d') := by
  ext k hk
  simp only [wordOf, BitVec.getElem_and, BitVec.getElem_append]
  grind

/-- The masks and patterns of the table, field by field. -/
theorem word_eq_wordOf (w : Word) : w = wordOf (opField w) (idxField w) (mskField w) (datField w) := by
  ext k hk
  simp only [wordOf, opField, idxField, mskField, datField]
  grind

/-- A command word that carries a row's pattern, from its four fields. -/
theorem carries (op : BitVec 8) (i m : BitVec 4) (d : BitVec 16) (mask pat : Word)
    (ho : op &&& opField mask = opField pat) (hi : i &&& idxField mask = idxField pat)
    (hm : m &&& mskField mask = mskField pat) (hd : d &&& datField mask = datField pat) :
    wordOf op i m d &&& mask = pat := by
  rw [word_eq_wordOf mask, wordOf_and, ho, hi, hm, hd, ← word_eq_wordOf pat]

namespace Laws.EncodeMatchesTable

-- Many small proofs: one after another they need few threads, and so little address space.
set_option Elab.async false

/-- The encoding of i, under its row's mask, is its row's pattern. -/
def Statement (i : Instr) : Prop := encode i &&& tableMask i = tableMatch i

theorem nop : Statement .nop := by
  simp only [Statement, encode, tableMask, tableMatch]
  exact carries _ _ _ _ _ _ (by decide) (by decide) (by decide) (by decide)

theorem init : Statement .init := by
  simp only [Statement, encode, tableMask, tableMatch]
  exact carries _ _ _ _ _ _ (by decide) (by decide) (by decide) (by decide)

theorem tick : Statement .tick := by
  simp only [Statement, encode, tableMask, tableMatch]
  exact carries _ _ _ _ _ _ (by decide) (by decide) (by decide) (by decide)

theorem readReg (d : BitVec 16) : Statement (.readReg d) := by
  simp only [Statement, encode, tableMask, tableMatch]
  exact carries _ _ _ _ _ _ (by decide) (by decide) (by decide) (by simp [datField])

theorem start (i : BitVec 4) : Statement (.start i) := by
  simp only [Statement, encode, tableMask, tableMatch]
  exact carries _ _ _ _ _ _ (by decide) (by simp [idxField]) (by decide) (by decide)

theorem stop (i : BitVec 4) : Statement (.stop i) := by
  simp only [Statement, encode, tableMask, tableMatch]
  exact carries _ _ _ _ _ _ (by decide) (by simp [idxField]) (by decide) (by decide)

theorem setAmp (i : BitVec 4) (d : BitVec 16) : Statement (.setAmp i d) := by
  simp only [Statement, encode, tableMask, tableMatch]
  exact carries _ _ _ _ _ _ (by decide) (by simp [idxField]) (by decide) (by simp [datField])

theorem resetOvl (i : BitVec 4) : Statement (.resetOvl i) := by
  simp only [Statement, encode, tableMask, tableMatch]
  exact carries _ _ _ _ _ _ (by decide) (by simp [idxField]) (by decide) (by decide)

theorem clearFaults (i : BitVec 4) : Statement (.clearFaults i) := by
  simp only [Statement, encode, tableMask, tableMatch]
  exact carries _ _ _ _ _ _ (by decide) (by simp [idxField]) (by decide) (by decide)

theorem getStatus (i : BitVec 4) : Statement (.getStatus i) := by
  simp only [Statement, encode, tableMask, tableMatch]
  exact carries _ _ _ _ _ _ (by decide) (by simp [idxField]) (by decide) (by decide)

theorem isSafe (i : BitVec 4) : Statement (.isSafe i) := by
  simp only [Statement, encode, tableMask, tableMatch]
  exact carries _ _ _ _ _ _ (by decide) (by simp [idxField]) (by decide) (by decide)

theorem ampBcast (d : BitVec 16) : Statement (.ampBcast d) := by
  simp only [Statement, encode, tableMask, tableMatch]
  exact carries _ _ _ _ _ _ (by decide) (by decide) (by decide) (by simp [datField])

theorem coordStart (m : BitVec 4) : Statement (.coordStart m) := by
  simp only [Statement, encode, tableMask, tableMatch]
  exact carries _ _ _ _ _ _ (by decide) (by decide) (by simp [mskField]) (by decide)

theorem confirm (i : BitVec 4) : Statement (.confirm i) := by
  simp only [Statement, encode, tableMask, tableMatch]
  exact carries _ _ _ _ _ _ (by decide) (by simp [idxField]) (by decide) (by decide)

theorem coordStop (m : BitVec 4) : Statement (.coordStop m) := by
  simp only [Statement, encode, tableMask, tableMatch]
  exact carries _ _ _ _ _ _ (by decide) (by decide) (by simp [mskField]) (by decide)

theorem unitStart (i : BitVec 4) : Statement (.unitStart i) := by
  simp only [Statement, encode, tableMask, tableMatch]
  exact carries _ _ _ _ _ _ (by decide) (by simp [idxField]) (by decide) (by decide)

theorem unitStop (i : BitVec 4) : Statement (.unitStop i) := by
  simp only [Statement, encode, tableMask, tableMatch]
  exact carries _ _ _ _ _ _ (by decide) (by simp [idxField]) (by decide) (by decide)

theorem reportFault (i : BitVec 4) (d : BitVec 16) : Statement (.reportFault i d) := by
  simp only [Statement, encode, tableMask, tableMatch]
  exact carries _ _ _ _ _ _ (by decide) (by simp [idxField]) (by decide) (by simp [datField])

theorem estop : Statement .estop := by
  simp only [Statement, encode, tableMask, tableMatch]
  exact carries _ _ _ _ _ _ (by decide) (by decide) (by decide) (by decide)

theorem setInhibit (d : BitVec 16) : Statement (.setInhibit d) := by
  simp only [Statement, encode, tableMask, tableMatch]
  exact carries _ _ _ _ _ _ (by decide) (by decide) (by decide) (by simp [datField])

theorem rearm : Statement .rearm := by
  simp only [Statement, encode, tableMask, tableMatch]
  exact carries _ _ _ _ _ _ (by decide) (by decide) (by decide) (by decide)

theorem setSim (i : BitVec 4) (d : BitVec 16) : Statement (.setSim i d) := by
  simp only [Statement, encode, tableMask, tableMatch]
  exact carries _ _ _ _ _ _ (by decide) (by simp [idxField]) (by decide) (by simp [datField])

theorem injectFault (i : BitVec 4) (d : BitVec 16) : Statement (.injectFault i d) := by
  simp only [Statement, encode, tableMask, tableMatch]
  exact carries _ _ _ _ _ _ (by decide) (by simp [idxField]) (by decide) (by simp [datField])

theorem forceState (i : BitVec 4) (d : BitVec 16) : Statement (.forceState i d) := by
  simp only [Statement, encode, tableMask, tableMatch]
  exact carries _ _ _ _ _ _ (by decide) (by simp [idxField]) (by decide) (by simp [datField])

end Laws.EncodeMatchesTable
end Sys2Proof
end

