-- ==== Sys2Proof/Tests/Slice0.lean ====
section
/-!
SUPPORT. The model's own tests: the decoding of words written out field by field from 30_encoding.md R52 and R56, the checks of
WellFormed.lean, one or two single steps per command with results from 95_test_vectors.md and the rules' own examples, and one
state (or word) that meets the hypotheses of each obligation that has some.
-/
namespace Sys2Proof.Tests

open Sys2Proof Sys2Proof.Machine Sys2Proof.Safety

-- Many small proofs: one after another they need few threads, and so little address space.
set_option Elab.async false

/-! ### Decoding, one word per command: op, idx, msk, dat -/

theorem test_decode_nop : decode true (0b00000000#8 ++ 0b0000#4 ++ 0b0000#4 ++ 0#16) = .instr .nop := by decide
theorem test_decode_init : decode true (0b00000001#8 ++ 0b0000#4 ++ 0b0000#4 ++ 0#16) = .instr .init := by decide
theorem test_decode_tick : decode true (0b00000010#8 ++ 0b0000#4 ++ 0b0000#4 ++ 0#16) = .instr .tick := by decide
theorem test_decode_readReg :
    decode true (0b00000011#8 ++ 0b0000#4 ++ 0b0000#4 ++ 0b1000000000000001#16) = .instr (.readReg 0x8001) := by decide
theorem test_decode_start : decode true (0b00010000#8 ++ 0b0010#4 ++ 0b0000#4 ++ 0#16) = .instr (.start 2) := by decide
theorem test_decode_stop : decode true (0b00010001#8 ++ 0b0001#4 ++ 0b0000#4 ++ 0#16) = .instr (.stop 1) := by decide
theorem test_decode_setAmp :
    decode true (0b00010010#8 ++ 0b0011#4 ++ 0b0000#4 ++ 0b0000000000110111#16) = .instr (.setAmp 3 55) := by decide
theorem test_decode_resetOvl : decode true (0b00010011#8 ++ 0b0001#4 ++ 0b0000#4 ++ 0#16) = .instr (.resetOvl 1) := by decide
theorem test_decode_clearFaults :
    decode true (0b00010100#8 ++ 0b0010#4 ++ 0b0000#4 ++ 0#16) = .instr (.clearFaults 2) := by decide
theorem test_decode_getStatus : decode true (0b00010101#8 ++ 0b0111#4 ++ 0b0000#4 ++ 0#16) = .instr (.getStatus 7) := by decide
theorem test_decode_isSafe : decode true (0b00010110#8 ++ 0b0011#4 ++ 0b0000#4 ++ 0#16) = .instr (.isSafe 3) := by decide
theorem test_decode_ampBcast :
    decode true (0b00010111#8 ++ 0b0000#4 ++ 0b0000#4 ++ 0b0000000001000000#16) = .instr (.ampBcast 64) := by decide
theorem test_decode_coordStart :
    decode true (0b00100000#8 ++ 0b0000#4 ++ 0b1011#4 ++ 0#16) = .instr (.coordStart 0xB) := by decide
theorem test_decode_confirm : decode true (0b00100001#8 ++ 0b0011#4 ++ 0b0000#4 ++ 0#16) = .instr (.confirm 3) := by decide
theorem test_decode_coordStop :
    decode true (0b00100010#8 ++ 0b0000#4 ++ 0b0110#4 ++ 0#16) = .instr (.coordStop 6) := by decide
theorem test_decode_unitStart : decode true (0b00100011#8 ++ 0b0010#4 ++ 0b0000#4 ++ 0#16) = .instr (.unitStart 2) := by decide
theorem test_decode_unitStop : decode true (0b00100100#8 ++ 0b0001#4 ++ 0b0000#4 ++ 0#16) = .instr (.unitStop 1) := by decide
theorem test_decode_reportFault :
    decode true (0b00100101#8 ++ 0b0001#4 ++ 0b0000#4 ++ 0b0000000000001001#16) = .instr (.reportFault 1 9) := by decide
theorem test_decode_estop : decode true (0b00100110#8 ++ 0b0000#4 ++ 0b0000#4 ++ 0#16) = .instr .estop := by decide
theorem test_decode_setInhibit :
    decode true (0b00100111#8 ++ 0b0000#4 ++ 0b0000#4 ++ 0b0000000000000001#16) = .instr (.setInhibit 1) := by decide
theorem test_decode_rearm : decode true (0b00101000#8 ++ 0b0000#4 ++ 0b0000#4 ++ 0#16) = .instr .rearm := by decide
theorem test_decode_setSim :
    decode true (0b00110000#8 ++ 0b0001#4 ++ 0b0000#4 ++ 0b0000000000000001#16) = .instr (.setSim 1 1) := by decide
theorem test_decode_injectFault :
    decode true (0b00110001#8 ++ 0b0000#4 ++ 0b0000#4 ++ 0b0000000000001000#16) = .instr (.injectFault 0 8) := by decide
theorem test_decode_forceState :
    decode true (0b00110010#8 ++ 0b0010#4 ++ 0b0000#4 ++ 0b0000000000000010#16) = .instr (.forceState 2 2) := by decide

/-- The host's numbering: a table row's bits are the command word. -/
theorem test_decodeTableWord : decodeTableWord 32 0x12300037 = some (.setAmp 3 55) ∧
    decodeTableWord 32 0x04000000 = none ∧ decodeTableWord 32 0x10010000 = none := by decide

/-! ### WellFormed: an ill-formed operand of every kind is refused -/

theorem test_illformed_index : (Instr.start 4).wellFormed = false ∧ (Instr.getStatus 15).wellFormed = false ∧
    (Instr.setAmp 4 50).wellFormed = false ∧ (Instr.confirm 8).wellFormed = false ∧ (Instr.start 3).wellFormed = true := by
  decide
theorem test_illformed_set : (Instr.coordStart 0).wellFormed = false ∧ (Instr.coordStop 0).wellFormed = false ∧
    (Instr.coordStart 8).wellFormed = true := by decide
theorem test_illformed_fmask : (Instr.reportFault 0 0).wellFormed = false ∧ (Instr.injectFault 0 0x20).wellFormed = false ∧
    (Instr.reportFault 0 0x1F).wellFormed = true := by decide
theorem test_illformed_bool : (Instr.setInhibit 2).wellFormed = false ∧ (Instr.setSim 0 2).wellFormed = false ∧
    (Instr.setSim 0 1).wellFormed = true := by decide
theorem test_illformed_state : (Instr.forceState 0 8).wellFormed = false ∧ (Instr.forceState 0 7).wellFormed = true := by
  decide

/-! ### Small states -/

/-- The state an accepted or rejected command leaves. -/
def after (i : Instr) (s : State) : State :=
  match exec i s with
  | .next t => t
  | .fault _ => s
  | .refused _ => s

/-- The state a step leaves. -/
def stepped (s : State) : State :=
  match step s with
  | .next t => t
  | .fault _ => s
  | .refused _ => s

/-- After INIT at time 0, nothing else done. -/
def ready : State := afterInit 0 State.reset

/-- The same at time t. -/
def at_ (t : Time) (s : State) : State := { s with now := t }

/-- A unit changed. -/
def withUnit (i : Chan) (f : UnitState → UnitState) (s : State) : State := s.setUnit i (f (s.unit i))

/-- The MC changed. -/
def withMaster (f : McState → McState) (s : State) : State := { s with m := f s.m }

/-- The MC in state x. -/
def mcIn (x : MState) (s : State) : State := withMaster (fun m => { m with state := x }) s

/-- The sample of channel i in `in.phys` changed. -/
def withPhys (i : Chan) (f : ChannelSample → ChannelSample) (s : State) : State :=
  { s with inp := { s.inp with phys := s.inp.phys.set i.val (f (chanAt s.inp.phys i)) i.isLt } }

/-- A STARTING, a RUNNING, a STOPPING unit, entered at time 0, and one in FAULT with the given classes. -/
def starting (u : UnitState) : UnitState := { u with state := .starting, startOut := true }
def driven (u : UnitState) : UnitState := { u with state := .running, startOut := true, running := true }
def stopping (u : UnitState) : UnitState := { u with state := .stopping, running := true }
def faulted (f : FaultMask) (u : UnitState) : UnitState := { u with state := .fault, faults := f }

/-! ### Single steps, by command -/

/-- X1. -/
theorem test_nop : (after .nop State.reset).result = some 0x00000000#32 := by decide
/-- R80's example, from EMERGENCY_STOP. -/
theorem test_init : let t := after .init (at_ 7 (mcIn .emergencyStop ready))
    t.m.state = .idle ∧ t.rc.duty = 0 ∧ t.sys.lastComm = 7 ∧ t.result = some 0#32 := by decide
/-- U6: a pending START commits. -/
theorem test_tick_starts :
    (after .tick (at_ 20 (withUnit 0 (fun u => { u with pending := .start }) ready))).result = some 0x00010000#32 := by
  decide +kernel
/-- T4: floor of 30000 / 7, and the power channel. -/
theorem test_tick_telemetry :
    let t := after .tick (at_ 10 (withPhys 0 (fun p => { p with pulseCount := 3, windowMs := 7, powerRaw := 321 }) ready))
    (t.unit 0).freqHz = 4285 ∧ (t.unit 0).powerW = 321 := by decide +kernel
/-- R83's example. -/
theorem test_readReg :
    (after (.readReg 4) { ready with rc := { ready.rc with duty := 140 } }).result = some 0x008C0000#32 := by decide
/-- X28. -/
theorem test_readReg_unmapped : (after (.readReg 0x60) ready).result = some 0x00000004#32 := by decide
/-- U1. -/
theorem test_start : regRead (after (.start 0) ready) 0x20 = some 0x0001#16 := by decide
/-- X8: NOT_INIT before BAD_INDEX; X15. -/
theorem test_start_order : (after (.start 7) State.reset).result = some 7#32 ∧
    (after (.start 4) ready).result = some 3#32 := by decide
/-- U3: STOP cancels the start not yet committed. -/
theorem test_stop_cancels :
    regRead (after (.stop 0) (withUnit 0 (fun u => { u with pending := .start }) ready)) 0x20 = some 0#16 := by decide
/-- X30. -/
theorem test_stop_idle : (after (.stop 0) ready).result = some 5#32 := by decide
/-- A1 and R70's example: rc.order becomes (3, ...). -/
theorem test_setAmp : regRead (after (.setAmp 0 0xFFFB) ready) 0x21 = some 20#16 ∧
    (after (.setAmp 3 55) ready).rc.order = [3, 0, 1, 2] := by decide
/-- A7, A8, A9. -/
theorem test_setAmp_clamps : ((after (.setAmp 0 101) ready).unit 0).amp = 100 ∧
    ((after (.setAmp 0 0x7FFF) ready).unit 0).amp = 100 ∧ ((after (.setAmp 0 0x8000) ready).unit 0).amp = 20 := by decide
/-- R71's example. -/
theorem test_resetOvl : let t := after (.resetOvl 1) (withUnit 1 (faulted 0x01) ready)
    t.result = some 0#32 ∧ (t.unit 1).pending = .reset := by decide
/-- R71: another class latched with OVL is BAD_STATE. -/
theorem test_resetOvl_other : (after (.resetOvl 1) (withUnit 1 (faulted 0x05) ready)).result = some 5#32 := by decide
/-- R72's example. -/
theorem test_clearFaults : let t := after (.clearFaults 2) (withUnit 2 (faulted 0x04) ready)
    t.result = some 0#32 ∧ (t.unit 2).pending = .clear := by decide
/-- R72: OVL alone is BAD_STATE. -/
theorem test_clearFaults_ovl : (after (.clearFaults 2) (withUnit 2 (faulted 0x01) ready)).result = some 5#32 := by decide
/-- The status words of 95 section 3: unit 1 in FAULT with OVL, and during its pulse. -/
theorem test_getStatus :
    let u := fun u : UnitState => { faulted 0x01 u with locked := true, commOk := true }
    (after (.getStatus 1) (withUnit 1 u ready)).result = some 0x460C0000#32 ∧
    (after (.getStatus 1) (withUnit 1 (fun x => { u x with pulse := true, resetOut := true }) ready)).result =
      some 0xA60C0000#32 := by decide
/-- X4, X7. -/
theorem test_getStatus_reset : (after (.getStatus 0) State.reset).result = some 0x00050000#32 ∧
    (after (.getStatus 7) State.reset).result = some 3#32 := by decide
/-- R74: IDLE is safe, UNKNOWN is not (X5). -/
theorem test_isSafe : (after (.isSafe 0) ready).result = some 0x00010000#32 ∧
    (after (.isSafe 0) State.reset).result = some 0#32 := by decide
/-- R84. -/
theorem test_ampBcast : let t := after (.ampBcast 60) ready
    (t.unit 2).amp = 60 ∧ t.rc.order = [3, 2, 1, 0] ∧ t.rc.bcast = 60 := by decide
/-- R90: channels 0, 1, 3 only. -/
theorem test_coordStart : let t := after (.coordStart 0xB) ready
    t.m.state = .coordinatedStart ∧ t.m.active = 0xB ∧ (t.unit 3).pending = .start ∧ (t.unit 2).pending = .none := by decide
/-- R97's example: INHIBITED. -/
theorem test_coordStart_inhibited :
    (after (.coordStart 1) (withMaster (fun m => { m with inhibit := true }) ready)).result = some 6#32 := by decide
/-- R91. -/
theorem test_confirm :
    (after (.confirm 1) (withMaster (fun m => { m with state := .coordinatedStart, active := 0x2 })
      (withUnit 1 driven ready))).m.confirmed = 0x2 := by decide
/-- X33. -/
theorem test_confirm_idle : (after (.confirm 0) ready).result = some 5#32 := by decide
/-- R92: the IDLE channel is skipped. -/
theorem test_coordStop :
    let t := after (.coordStop 0x3) (at_ 9 (withMaster (fun m => { m with state := .running, active := 0x1 })
      (withUnit 0 driven ready)))
    t.m.stopWait = 1 ∧ t.m.active = 0 ∧ t.m.tStopSeq = 9 ∧ (t.unit 0).pending = .stop ∧ (t.unit 1).pending = .none := by
  decide
/-- X20. -/
theorem test_coordStop_idle : (after (.coordStop 1) ready).result = some 5#32 := by decide
/-- R93's example: the active set becomes 0xF. -/
theorem test_unitStart : let t := after (.unitStart 2) (withMaster (fun m => { m with state := .running, active := 0xB }) ready)
    t.m.active = 0xF ∧ (t.unit 2).pending = .start := by decide
/-- X34. -/
theorem test_unitStart_idle : (after (.unitStart 0) ready).result = some 5#32 := by decide
/-- R94: a unit that cannot be stopped leaves the active set. -/
theorem test_unitStop : let t := after (.unitStop 0) (withMaster (fun m => { m with state := .running, active := 0x3 }) ready)
    t.m.active = 0x2 ∧ t.m.stopWait = 0 ∧ t.result = some 0#32 := by decide
/-- X35. -/
theorem test_unitStop_idle : (after (.unitStop 0) ready).result = some 5#32 := by decide
/-- R95's example. -/
theorem test_reportFault : let t := after (.reportFault 1 1) (mcIn .running ready)
    regRead t 0x02 = some 4#16 ∧ regRead t 0x05 = some 0x8011#16 := by decide
/-- X22. -/
theorem test_reportFault_value : (after (.reportFault 0 0x20) ready).result = some 4#32 := by decide
/-- R96's example. -/
theorem test_estop : let t := after .estop (at_ 160 (withUnit 1 driven (mcIn .running ready)))
    t.m.state = .emergencyStop ∧ (t.unit 1).state = .idle ∧ safe (t.unit 1) = true ∧ (t.unit 1).running = false := by decide
/-- R67, C4: an UNKNOWN unit goes to FAULT. -/
theorem test_estop_unknown :
    ((after .estop (withUnit 2 (fun u => { u with state := .unknown }) ready)).unit 2).state = .fault := by decide
/-- R97. -/
theorem test_setInhibit : regRead (after (.setInhibit 1) ready) 0x10 = some 1#16 ∧
    (after (.setInhibit 2) ready).result = some 4#32 := by decide
/-- R98. -/
theorem test_rearm : let t := after .rearm (withMaster (fun m => { m with state := .faultIsolation, faulted := 2 }) ready)
    t.m.state = .idle ∧ t.m.faulted = 0 := by decide
/-- X36. -/
theorem test_rearm_idle : (after .rearm ready).result = some 5#32 := by decide
/-- R102's example: CH1_FLAGS bit 3. -/
theorem test_setSim : ((regRead (after (.setSim 1 1) ready) 0x35).getD 0).getLsbD 3 = true := by decide
/-- X37 on the meaning. -/
theorem test_setSim_absent :
    (after (.setSim 0 1) { ready with cfg := { Config.test with diagPresent := false } }).result = some 1#32 := by decide
/-- R103: two masks merge. -/
theorem test_injectFault :
    ((after (.injectFault 0 8) (withUnit 0 (fun u => { u with inj := 1 }) ready)).unit 0).inj = 9 := by decide
/-- R104's example, and code 7 stores UNKNOWN. -/
theorem test_forceState : regRead (after (.forceState 2 2) ready) 0x46 = some 2#16 ∧
    ((after (.forceState 2 7) ready).unit 2).state = .unknown := by decide
/-- R88: a forced running state is locked out. -/
theorem test_forceState_gate : (after (.forceState 2 3) (mcIn .faultIsolation ready)).result = some 8#32 := by decide

/-- A command placed by withFetchWord is the next step's, and the first one that runs after reset. -/
theorem test_withFetchWord : (stepped (State.reset.withFetchWord 32 0x01000000)).sys.initialized = true ∧
    (stepped (State.reset.withFetchWord 32 0x02000000)).result = some 7#32 := by decide +kernel

/-! ### States that meet the obligations' hypotheses, clause by clause -/

/-- One word presented to a state, alone. -/
def presenting (w : Word) (s : State) : State := { s with port := [.cmd w 5 .nominal] }

/-- The same block without the diagnostic commands. -/
def noDiag (s : State) : State := { s with cfg := { s.cfg with diagPresent := false } }

theorem after_next (i : Instr) (s : State) (h : (match exec i s with | .next _ => true | _ => false) = true) :
    exec i s = .next (after i s) := by
  unfold after
  cases e : exec i s <;> simp_all

theorem witness_DecodeOfEncode : (diagnostic (.forceState 15 0xFFFF) = true → true = true) ∧
    (diagnostic .nop = true → false = true) := by decide
theorem witness_EncodeOfDecode : decode true 0x32F0FFFF#32 = .instr (.forceState 15 0xFFFF) ∧
    decode false 0x00000000#32 = .instr .nop := by decide
theorem presenting_port (w : Word) (s : State) : (presenting w s).port = .cmd w 5 .nominal :: [] := rfl
theorem presenting_legal (w : Word) : (presenting w ready).cfg.legal = true :=
  show Config.test.legal = true by decide
theorem witness_UnassignedOpcodesIllegal :
    ([0x04000000#32, 0x0F000000#32, 0x18000000#32, 0x1F000000#32, 0x29000000#32, 0x2F000000#32, 0x33000000#32,
        0xFF000000#32].all fun w => decode true w = .illegalOpcode) ∧
    ([0x30000001#32, 0x32000000#32].all fun w => decode false w = .illegalOpcode) ∧ (presenting 0x04000000 ready).cfg.legal = true ∧
    (presenting 0x04000000 ready).port = .cmd 0x04000000 5 .nominal :: [] :=
  ⟨by decide +kernel, by decide +kernel, presenting_legal _, presenting_port _ _⟩
theorem witness_UnusedFieldsReserved :
    ([0x00000001#32, 0x01100000#32, 0x10010000#32, 0x10000001#32, 0x20100001#32, 0x03FFFF00#32].all fun w =>
      decode true w = .reservedField) ∧ (presenting 0x00000001 ready).cfg.legal = true ∧
    (presenting 0x00000001 ready).port = .cmd 0x00000001 5 .nominal :: [] :=
  ⟨by decide +kernel, presenting_legal _, presenting_port _ _⟩
theorem witness_StepRunsDecodedCommand : (presenting 0x10200000 ready).cfg.legal = true ∧
    (presenting 0x10200000 ready).port = .cmd 0x10200000 5 .nominal :: [] ∧
    decode (presenting 0x10200000 ready).cfg.diagPresent 0x10200000 = .instr (.start 2) := by decide +kernel
theorem witness_LegalStepNeverStops : State.reset.cfg.legal = true ∧
    ({ Config.test with tSeqTimeout := 0x7FFFFFFF, dutyMax := 1 } : Config).legal = true := by decide
theorem witness_IdleStepAndIllegalConfig : State.reset.port = [] ∧
    (∀ c ∈ [{ Config.test with dutyMax := 0 }, { Config.test with tStartDelay := 0x80000000 }],
      (State.afterReset c [.reset]).cfg.legal = false ∧ (State.afterReset c [.reset]).port = .reset :: []) := by decide
theorem witness_ResetGivesAfterResetValues :
    ({ ready with port := [.reset] } : State).cfg.legal = true ∧ ({ ready with port := [.reset] } : State).port = .reset :: [] :=
  by decide
theorem witness_StepKeepsInvariant : Inv (presenting 0x01000000 State.reset) ∧
    ∃ t, step (presenting 0x01000000 State.reset) = .next t := ⟨by decide +kernel, _, rfl⟩
theorem witness_UnitsOutsideFaultHoldNoFault :
    (∀ (x : BitVec 4) (d : BitVec 16), Instr.start 0 ≠ .forceState x d) ∧ (∃ t, exec (.start 0) ready = .next t) ∧
    (∀ j : Chan, (ready.unit j).state ≠ .fault → (ready.unit j).state ≠ .unknown → (ready.unit j).faults = 0#5) ∧
    ready.sys.initialized = true ∧ exec .tick ready = .next (after .tick ready) :=
  ⟨by simp, ⟨_, rfl⟩, by decide, rfl, after_next _ _ (by decide +kernel)⟩

/-- The block in EMERGENCY_STOP with a TICK presented. -/
def stoppedTick : State := presenting 0x02000000 (after .estop ready)

theorem witness_EmergencyStopIsTerminal : Inv stoppedTick ∧ stoppedTick.m.state = .emergencyStop ∧
    step stoppedTick = .next (stepped stoppedTick) ∧
    (∀ (now : Time) (inp : Sample) (rest : List Transaction), stoppedTick.port ≠ .cmd (encode .init) now inp :: rest) ∧
    (∀ rest : List Transaction, stoppedTick.port ≠ .reset :: rest) := by
  have hw : (0x02000000#32 : Word) ≠ encode .init := by decide
  refine ⟨by decide +kernel, by decide, rfl, ?_, ?_⟩
  · intro now inp rest h
    exact hw (by injection h with h; injection h)
  · intro rest h
    injection h with h
    cases h

theorem witness_NotInitBeforeInit : State.reset.sys.initialized = false ∧ beforeInit .tick = false ∧
    (diagnostic .tick = true → State.reset.cfg.diagPresent = true) ∧ beforeInit (.forceState 0 0) = false ∧
    (diagnostic (.forceState 0 0) = true → State.reset.cfg.diagPresent = true) := by decide
theorem witness_DiagnosticsAbsent : diagnostic (.setSim 0 1) = true ∧ diagnostic (.forceState 0 0) = true ∧
    (noDiag ready).cfg.diagPresent = false := by decide
theorem witness_BadIndexRejected : 4 ≤ (4#4).toNat ∧ 4 ≤ (15#4).toNat ∧ ready.sys.initialized = true ∧
    ready.cfg.diagPresent = true ∧ Instr.getStatus 4 ∈ [.getStatus 4, .isSafe 4] ∧
    Instr.start 4 ∉ [.setSim 4 0, .injectFault 4 0, .forceState 4 0] ∧ State.reset.sys.initialized = false := by decide
theorem witness_BadValueRejected : ready.sys.initialized = true ∧ ready.cfg.diagPresent = true ∧
    32 ≤ (0x20#16).toNat ∧ (0#16).toNat % 32 = 0 ∧ 1 < (2#16).toNat ∧ 7 < (8#16).toNat ∧
    ([0x07#16, 0x0F#16, 0x12#16, 0x1F#16, 0x2A#16, 0x5F#16, 0x60#16, 0xFFFF#16].all fun a => Unmapped a) := by decide +kernel
theorem witness_StartGateOnEveryStartPath : ready.sys.initialized = true ∧ LockedOut (mcIn .emergencyStop ready).m ∧
    LockedOut (mcIn .faultIsolation ready).m ∧ (¬ LockedOut (withMaster (fun m => { m with inhibit := true }) ready).m ∧
      (withMaster (fun m => { m with inhibit := true }) ready).m.inhibit = true) ∧
    (¬ LockedOut ready.m ∧ ready.m.inhibit = false) ∧ (1 ≤ (1#16).toNat ∧ (3#16).toNat ≤ 3) ∧
    ready.cfg.diagPresent = true ∧ (1#4 : ChanMask) ≠ 0#4 := by decide +kernel
theorem witness_UnitCommandsBadState : ready.sys.initialized = true ∧ StartsAllowed ready.m ∧
    ¬ CanStart ((withUnit 0 driven ready).unit 0) ∧ ¬ CanStop (ready.unit 0) ∧ ¬ CanResetOvl (ready.unit 0) ∧
    ¬ CanClearFaults (ready.unit 0) := by
  refine ⟨by decide, by decide, by decide, by decide, by decide, fun h => absurd h.1 (by decide)⟩
theorem witness_MasterCommandsBadState : ready.sys.initialized = true ∧
    ((1#4 : ChanMask) ≠ 0#4 ∧ StartsAllowed (mcIn .running ready).m ∧ (mcIn .running ready).m.state ≠ .idle) ∧
    (StartsAllowed ready.m ∧ hasChan 8 3 = true ∧ ¬ CanStart ((withUnit 3 driven ready).unit 3)) ∧
    ready.m.state ≠ .coordinatedStart ∧ hasChan ready.m.active 3 = false ∧ (ready.unit 3).state ≠ .running ∧
    (ready.m.state ≠ .running ∧ ready.m.state ≠ .coordinatedStart) ∧
    ready.m.state ≠ .faultIsolation ∧ ((withUnit 3 driven (mcIn .faultIsolation ready)).unit 3).state ≠ .idle := by decide
theorem witness_ReadsReturnAndWriteNothing : regRead ready 0x00 = some 0#16 ∧ regRead ready 0x59 = some 0x4400#16 := by decide
theorem witness_StartAndStopLatchRequests : ready.sys.initialized = true ∧ StartsAllowed ready.m ∧
    CanStart (ready.unit 0) ∧
    (((withUnit 3 driven ready).unit 3).state = .running ∧ ((withUnit 3 driven ready).unit 3).pending = .none) ∧
    ((withUnit 3 (fun u => { u with pending := .start }) ready).unit 3).state = .idle ∧
    ((withUnit 3 (fun u => { u with pending := .start }) ready).unit 3).pending = .start := by decide
theorem witness_SetAmpClampsAndStores : ready.sys.initialized = true ∧
    ((0x8000#16).toInt ≤ 20 ∧ (20#16).toInt ≤ 20) ∧ (100 ≤ (100#16).toInt ∧ 100 ≤ (0x7FFF#16).toInt) ∧
    (20 ≤ (20#16).toInt ∧ (100#16).toInt ≤ 100) := by decide
theorem witness_ResetsLatchRequest : ready.sys.initialized = true ∧ CanResetOvl ((withUnit 1 (faulted 1) ready).unit 1) ∧
    CanClearFaults ((withUnit 2 (faulted 0x1E) ready).unit 2) ∧ CanClearFaults ((withUnit 0 (faulted 0) ready).unit 0) := by
  refine ⟨by decide, by decide, ⟨by decide, by decide, by decide, by decide, ?_⟩, ⟨by decide, by decide, by decide, by decide, ?_⟩⟩
  · intro k _; cases k <;> decide
  · intro k _; cases k <;> decide
theorem witness_BroadcastSetsEverySetpoint : ready.sys.initialized = true ∧ (20#16).toInt ≤ 20 ∧ 100 ≤ (100#16).toInt ∧
    (20 ≤ (21#16).toInt ∧ (21#16).toInt ≤ 100) := by decide
theorem witness_CoordStartBeginsSequence : ready.sys.initialized = true ∧ (0xF#4 : ChanMask) ≠ 0#4 ∧ ready.m.state = .idle ∧
    ready.m.inhibit = false ∧ ∀ j : Chan, hasChan 0xF#4 j = true → CanStart (ready.unit j) := by decide

/-- A coordinated start of channel 1, the unit RUNNING and not yet confirmed. -/
def sequencing : State :=
  withMaster (fun m => { m with state := .coordinatedStart, active := 0x2 }) (withUnit 1 driven ready)

theorem witness_ConfirmSetsBit : sequencing.sys.initialized = true ∧ sequencing.m.state = .coordinatedStart ∧
    hasChan sequencing.m.active 1 = true ∧ (sequencing.unit 1).state = .running := by decide
theorem witness_StopSequenceStopsChannels : sequencing.sys.initialized = true ∧ (0xF#4 : ChanMask) ≠ 0#4 ∧
    sequencing.m.state = .coordinatedStart ∧ (mcIn .running ready).m.state = .running ∧
    (8#4 : ChanMask) = 1#4 <<< (3 : Chan).val := by decide
theorem witness_UnitStartAddsChannel : (mcIn .running ready).sys.initialized = true ∧ (mcIn .running ready).m.state = .running ∧
    (mcIn .running ready).m.inhibit = false ∧ CanStart ((mcIn .running ready).unit 3) := by decide
theorem witness_ReportFaultIsolates : ready.sys.initialized = true ∧ (0x10#5 : FaultMask) ≠ 0#5 ∧
    ready.m.state ≠ .emergencyStop ∧ (mcIn .emergencyStop ready).m.state = .emergencyStop := by decide
theorem witness_EstopReachesSafePosture : (withUnit 0 driven ready).sys.initialized = true := by decide
theorem witness_SetInhibitAndRearmComplete : (mcIn .faultIsolation ready).sys.initialized = true ∧
    (mcIn .faultIsolation ready).m.state = .faultIsolation ∧
    ∀ j : Chan, ((mcIn .faultIsolation ready).unit j).state = .idle ∧ ((mcIn .faultIsolation ready).unit j).faults = 0#5 ∧
      ((mcIn .faultIsolation ready).unit j).pending = .none := by decide
theorem witness_SimAndInjectWriteTheirField : ready.sys.initialized = true ∧ ready.cfg.diagPresent = true ∧
    (0x10#5 : FaultMask) ≠ 0#5 := by decide
theorem witness_ForceStateSetsUnit : ready.sys.initialized = true ∧ ready.cfg.diagPresent = true ∧ StartsAllowed ready.m ∧
    (∀ p ∈ [(0#16, UState.idle), (1#16, .starting), (3#16, .stopping), (4#16, .fault), (5#16, .unknown), (7#16, .unknown)],
      p.1.toNat ≤ 7 ∧ unitStateNumber p.2 = min p.1.toNat 5) := by decide

/-! The TICK statements: each state is initialised, and its TICK answers. -/

/-- A TICK of s answers a next state. -/
abbrev Ticks (s : State) : Prop := s.sys.initialized = true ∧ exec .tick s = .next (after .tick s)

theorem ticks (s : State) (h : s.sys.initialized = true) : Ticks s :=
  ⟨h, after_next _ _ (by simp [exec, execTick, ifInit, h, State.accept])⟩

theorem witness_TickReturnsPackedStates : ready.sys.initialized = true := by decide

/-- A window of 0 on channel 0, of 1 ms on channel 1. -/
def telemetered : State := withPhys 1 (fun p => { p with pulseCount := 0xFFFF, windowMs := 1 }) ready

theorem witness_TickCommAndTelemetry : Ticks telemetered ∧ (chanAt telemetered.inp.phys 0).windowMs = 0#16 ∧
    (chanAt telemetered.inp.phys 1).windowMs ≠ 0#16 := ⟨ticks _ (by decide), by decide, by decide⟩
theorem witness_TickLatchesRisesAndInjections : Ticks ready ∧ (ready.unit 0).state ≠ .fault := ⟨ticks _ (by decide), by decide⟩

/-- Channel 1 RUNNING with an injected HW fault, channel 2 UNKNOWN. -/
def faulting : State :=
  withUnit 2 (fun u => { u with state := .unknown }) (withUnit 1 (fun u => { driven u with inj := 0x08 }) ready)

theorem witness_TickEntersFault : Ticks faulting ∧ (faulting.unit 1).state ≠ .fault ∧
    ((after .tick faulting).unit 1).faults ≠ 0#5 ∧ (faulting.unit 2).state = .unknown :=
  ⟨ticks _ (by decide), by decide, by decide +kernel, by decide⟩

/-- Unit 0 with a request pending in the state f gives it, at time t. -/
def committing (f : UnitState → UnitState) (p : Pending) (t : Time) : State :=
  at_ t (withUnit 0 (fun u => { f u with pending := p }) ready)

/-- One state for each clause, the timers at their boundary (TC: 100 ms each). -/
def lifecycleStates : List (State × UState × Pending × Bool) := [
  (committing id .start 0, .idle, .start, true), (committing id .none 0, .idle, .none, true),
  (committing starting .stop 100, .starting, .stop, true), (committing starting .none 100, .starting, .none, true),
  (committing starting .none 99, .starting, .none, false), (committing driven .stop 5, .running, .stop, true),
  (committing driven .none 5, .running, .none, true), (committing stopping .none 100, .stopping, .none, true),
  (committing stopping .none 99, .stopping, .none, false)]

theorem witness_TickCommitsLifecycle : ∀ p ∈ lifecycleStates, p.1.sys.initialized = true ∧
    ((after .tick p.1).unit 0).faults = 0#5 ∧ (p.1.unit 0).state = p.2.1 ∧ (p.1.unit 0).pending = p.2.2.1 ∧
    ((p.2.1 = .starting ∨ p.2.1 = .stopping) →
      (p.2.2.2 = true ↔ 100 ≤ (p.1.now - (p.1.unit 0).tState).toNat)) := by decide +kernel

/-- Unit 0 in FAULT with classes f, pulse and request as given, at time t. -/
def inFault (f : FaultMask) (pulse : Bool) (p : Pending) (t : Time) : State :=
  at_ t (withUnit 0 (fun u => { faulted f u with pulse := pulse, resetOut := pulse, pending := p }) ready)

/-- The same with the overload line still asserted at its debounced level. -/
def heldOvl (s : State) : State :=
  withPhys 0 (fun p => { p with overload := true })
    (withUnit 0 (fun u => { u with deb := u.deb.set 0 ⟨true, false, 0⟩ }) s)

/-- Every clause's premises on the pulse, the request and the timer (TC: a pulse of 50 ms), and on the latched mask and the
levels after the TICK, which these states keep. -/
theorem witness_TickLeavesFaultByCommandOnly :
    (∀ s ∈ [inFault 1 true .none 50, heldOvl (inFault 1 true .none 50), inFault 1 true .none 49, inFault 1 false .reset 5,
        heldOvl (inFault 1 false .reset 5), inFault 0x1F false .clear 5, inFault 0 false .clear 5,
        heldOvl (inFault 0x1F false .clear 5), inFault 1 false .none 5],
      s.sys.initialized = true ∧ (s.unit 0).state = .fault) ∧
    (∀ s ∈ [inFault 1 true .none 50, inFault 1 false .reset 5, inFault 0x1F false .clear 5],
      ((after .tick s).unit 0 |>.debOf .ovl).level = false) ∧
    (∀ s ∈ [heldOvl (inFault 1 true .none 50), heldOvl (inFault 1 false .reset 5), heldOvl (inFault 0x1F false .clear 5)],
      ((after .tick s).unit 0 |>.debOf .ovl).level = true) := by decide +kernel

/-- Channels 1 and 2 RUNNING at 30 and 60, channel 2 the more recent, under a policy. -/
def arbitrated (p : ArbPolicy) : State :=
  { withUnit 2 (fun u => { driven u with amp := 60 }) (withUnit 1 (fun u => { driven u with amp := 30 }) ready) with
    rc := ⟨0, [0, 2, 1, 3], 0⟩
    cfg := { Config.test with arbPolicy := p } }

theorem witness_TickDrivesActuator : Ticks (arbitrated .mostRecent) ∧
    (∀ j : Chan, ((after .tick ready).unit j).running = false) ∧
    ((arbitrated .mostRecent).rc.order = [0] ++ 2 :: [1, 3] ∧
      (∀ x ∈ ([0] : List Chan), ((after .tick (arbitrated .mostRecent)).unit x).running = false) ∧
      ((after .tick (arbitrated .mostRecent)).unit 2).running = true) ∧
    ((arbitrated .maximum).cfg.arbPolicy = .maximum ∧ ((after .tick (arbitrated .maximum)).unit 2).running = true ∧
      ∀ x : Chan, ((after .tick (arbitrated .maximum)).unit x).running = true →
        ((after .tick (arbitrated .maximum)).unit x).amp.toNat ≤ ((after .tick (arbitrated .maximum)).unit 2).amp.toNat) ∧
    ((arbitrated .average).cfg.arbPolicy = .average ∧ ((after .tick (arbitrated .average)).unit 1).running = true) :=
  ⟨ticks _ (by decide), by decide +kernel, by decide +kernel, by decide +kernel, by decide +kernel⟩

theorem witness_DutyIsLinearPercent : 20 ≤ 20 ∧ 100 ≤ 100 ∧ Config.test.dutyMax = 255#16 := by decide
theorem witness_DebounceLatchesAfterWindow : (Debounce.cleared.level ≠ true ∧ Debounce.cleared.pend = false) ∧
    ((⟨true, false, 0⟩ : Debounce).level ≠ false ∧ (⟨true, false, 0⟩ : Debounce).pend = false) ∧
    (50#32).toNat ≤ ((150#32 : Time) - 100#32).toNat ∧ ¬ (50#32).toNat ≤ ((149#32 : Time) - 100#32).toNat := by decide

/-- Channels 1 and 3 in FAULT, not yet taken. -/
def polling (x : MState) : State := mcIn x (withUnit 1 (faulted 1) (withUnit 3 (faulted 8) ready))

theorem witness_TickIsolatesFaultedUnits : Ticks (polling .running) ∧
    NewlyFaulted (polling .running).m 3 ((after .tick (polling .running)).unit 3) ∧ (polling .running).m.state ≠ .emergencyStop ∧
    (∀ j : Chan, 3 < j → ¬ NewlyFaulted (polling .running).m j ((after .tick (polling .running)).unit j)) ∧
    Ticks (polling .emergencyStop) ∧ (polling .emergencyStop).m.state = .emergencyStop ∧
    NewlyFaulted (polling .emergencyStop).m 3 ((after .tick (polling .emergencyStop)).unit 3) :=
  ⟨ticks _ (by decide), by decide +kernel, by decide, by decide +kernel, ticks _ (by decide), by decide, by decide +kernel⟩

/-- A RUNNING MC with nothing active and nothing to stop, then one with a stop outstanding since time 0, then a coordinated
start with its unit still STARTING. -/
def overStates : List State := [mcIn .running ready,
  withMaster (fun m => { m with state := .running, stopWait := 1 }) (withUnit 0 stopping ready),
  withMaster (fun m => { m with state := .coordinatedStart, active := 1 }) (withUnit 0 starting ready), sequencing]

theorem witness_TickDrivesSequence :
    (∀ s ∈ overStates ++ overStates.map (at_ 500), s.sys.initialized = true ∧ s.m.state ≠ .emergencyStop ∧
      s.m.state ≠ .faultIsolation ∧ ∀ j : Chan, ¬ NewlyFaulted s.m j ((after .tick s).unit j)) ∧
    (overStates.map fun s => (after .tick s).m.state) = [.idle, .running, .coordinatedStart, .running] ∧
    (overStates.map fun s => (after .tick (at_ 500 s)).m.lastFault.timeout) = [false, false, false, false] := by
  decide +kernel

/-- A coordinated start whose unit has not moved, and a stop sequence whose unit came back to RUNNING, each 500 ms old. -/
def lateStates : List State := [withMaster (fun m => { m with state := .coordinatedStart, active := 1 }) (at_ 500 ready),
  withMaster (fun m => { m with state := .running, stopWait := 1 }) (at_ 500 (withUnit 0 driven ready))]

theorem witness_TickDrivesSequence_late : ∀ s ∈ lateStates, s.sys.initialized = true ∧
    (∀ j : Chan, ¬ NewlyFaulted s.m j ((after .tick s).unit j)) ∧ s.cfg.tSeqTimeout.toNat ≤ (s.now - s.m.tStartSeq).toNat ∧
    s.cfg.tSeqTimeout.toNat ≤ (s.now - s.m.tStopSeq).toNat ∧ (after .tick s).m.state = .faultIsolation ∧
    (after .tick s).m.lastFault.timeout = true := by decide +kernel

/-- A coordinated start that a stop has emptied while its unit is STOPPING (log entry 13). -/
def emptied : State := withMaster (fun m => { m with state := .coordinatedStart, stopWait := 1 }) (withUnit 0 stopping ready)

/-- The clauses of EMERGENCY_STOP and of FAULT_ISOLATION, and the emptied start. -/
theorem witness_TickDrivesSequence_quiet :
    (∀ x ∈ [MState.emergencyStop, .faultIsolation], Ticks (mcIn x ready) ∧
      ∀ j : Chan, ¬ NewlyFaulted (mcIn x ready).m j ((after .tick (mcIn x ready)).unit j)) ∧
    (after .tick emptied).m.state = .running :=
  ⟨fun x hx => ⟨ticks _ rfl, by revert x; decide +kernel⟩, by decide +kernel⟩

/-- One state for each way a request goes: committed in each state that commits one, dropped by a fault entry, kept, kept
through a pulse, cancelled or latched by an isolation. -/
theorem witness_TickConsumesCommittedRequests :
    (∀ s ∈ [committing id .start 0, committing starting .stop 0, committing driven .stop 0, inFault 1 false .reset 5,
        inFault 0x1E false .clear 5, committing id .none 0, inFault 1 true .none 5], Ticks s) ∧
    (Ticks faulting ∧ (faulting.unit 1).state ≠ .fault ∧ ((after .tick faulting).unit 1).faults ≠ 0#5) ∧
    (∀ s ∈ lateStates, s.m.state ≠ .emergencyStop ∧ s.m.state ≠ .faultIsolation ∧
      (after .tick s).m.state = .faultIsolation) ∧
    NewlyFaulted (polling .running).m 3 ((after .tick (polling .running)).unit 3) :=
  ⟨fun s hs => ticks s (by revert s; decide +kernel), ⟨ticks _ rfl, by decide, by decide +kernel⟩, by decide +kernel,
    by decide +kernel⟩

theorem witness_MasterTransitionTable : exec (.coordStart 1) ready = .next (after (.coordStart 1) ready) ∧
    ready.m.state ≠ (after (.coordStart 1) ready).m.state ∧
    exec .tick sequencing = .next (after .tick sequencing) ∧ sequencing.m.state ≠ (after .tick sequencing).m.state :=
  ⟨rfl, by decide, (ticks _ (by decide)).2, by decide +kernel⟩
theorem witness_CommandEffectsAreDeferred : exec (.start 0) ready = .next (after (.start 0) ready) ∧
    drivesOutputs (.start 0) = false ∧ exec (.forceState 2 2) ready = .next (after (.forceState 2 2) ready) :=
  ⟨rfl, by decide, rfl⟩
theorem witness_OneChannelCommandsLeaveOthers : (1 : Chan) ≠ 0 ∧ idxOf 0 = 0 ∧ idxOf 3 = 3 ∧
    exec (.start (idxOf 0)) ready = .next (after (.start (idxOf 0)) ready) := ⟨by decide, by decide, by decide, rfl⟩

/-- Channel 0 as in `ready`, channel 1 and the MC elsewhere. -/
def elsewhere : State := mcIn .running (withUnit 1 driven ready)

theorem witness_TickUnitsDoNotInterfere : exec .tick ready = .next (after .tick ready) ∧
    exec .tick elsewhere = .next (after .tick elsewhere) ∧ ready.unit 0 = elsewhere.unit 0 ∧ ready.sys = elsewhere.sys ∧
    ready.cfg = elsewhere.cfg ∧ ready.now = elsewhere.now ∧ ready.inp.commSeen = elsewhere.inp.commSeen ∧
    chanAt ready.inp.phys 0 = chanAt elsewhere.inp.phys 0 ∧ chanAt ready.inp.sim 0 = chanAt elsewhere.inp.sim 0 :=
  ⟨(ticks _ (by decide)).2, (ticks _ (by decide)).2, by decide, by decide, by decide, by decide, by decide, by decide,
    by decide⟩
theorem witness_LatchedFaultsPersist : exec .tick (inFault 1 true .none 50) = .next (after .tick (inFault 1 true .none 50)) ∧
    hasClass ((inFault 1 true .none 50).unit 0).faults .ovl = true ∧
    hasClass ((after .tick (inFault 1 true .none 50)).unit 0).faults .ovl = false ∧
    hasClass ((after .tick (inFault 0x1F false .clear 5)).unit 0).faults .wd = false :=
  ⟨(ticks _ (by decide)).2, by decide, by decide +kernel, by decide +kernel⟩
theorem witness_FieldWriters : exec (.start 0) ready = .next (after (.start 0) ready) ∧ Instr.start 0 ≠ .init ∧
    Instr.start 0 ≠ .tick ∧ (∀ x d, Instr.start 0 ≠ .setSim x d) ∧ (∀ x d, Instr.start 0 ≠ .setAmp x d) ∧
    (∀ d, Instr.start 0 ≠ .ampBcast d) ∧ ∀ d, Instr.start 0 ≠ .setInhibit d :=
  ⟨rfl, by decide, by decide, by simp, by simp, by simp, by simp⟩
theorem witness_IdempotentCommands : exec .estop ready = .next (after .estop ready) ∧
    ((committing driven .stop 5).unit 0).pending = .stop ∧
    exec (.stop (idxOf 0)) (committing driven .stop 5) = .next (after (.stop (idxOf 0)) (committing driven .stop 5)) :=
  ⟨rfl, by decide, rfl⟩
theorem witness_UnitStartAndStopOperations : uStartOk (ready.unit 0) = true ∧ uStartOk (driven (ready.unit 0)) = false ∧
    uStopOk ((committing id .start 0).unit 0) = true ∧ ((committing id .start 0).unit 0).state = .idle ∧
    uStopOk (driven (ready.unit 0)) = true ∧ (driven (ready.unit 0)).state ≠ .idle ∧ uStopOk (ready.unit 0) = false := by
  decide
theorem witness_PseudoInstructionsExpand :
    (3#16 ∉ [0x0#16, 0x1#16, 0x2#16, 0x4#16, 0x8#16]) ∧ (0x10#16 ∉ [0x0#16, 0x1#16, 0x2#16, 0x4#16, 0x8#16]) ∧
    ([0x0F#16, 0x12#16, 0x22#16, 0x2A#16, 0x60#16].all fun a => a ≠ 0x0010#16 ∧ a ≠ 0x0011#16 ∧
      ∀ i : Chan, a.toNat ≠ 0x20 + 0x10 * i.val ∧ a.toNat ≠ 0x21 + 0x10 * i.val) := by decide +kernel

end Sys2Proof.Tests
end

section
/-!
SUPPORT. The step, case by case (10_state.md R31), and parameter legality read as bounds (00_scope.md R10).
-/
namespace Sys2Proof

/-- R10, parameter by parameter. -/
theorem Config.legal_iff (c : Config) : c.legal = true ↔
    (c.tStartDelay.toNat < 2 ^ 31 ∧ c.tStopSettle.toNat < 2 ^ 31 ∧ c.tResetPulse.toNat < 2 ^ 31 ∧
      c.tDebOvl.toNat < 2 ^ 31 ∧ c.tDebFul.toNat < 2 ^ 31 ∧ c.tDebHw.toNat < 2 ^ 31 ∧ c.tDebWd.toNat < 2 ^ 31 ∧
      c.tCommTimeout.toNat < 2 ^ 31 ∧ c.tSeqTimeout.toNat < 2 ^ 31) ∧ 1 ≤ c.dutyMax.toNat := by
  simp only [Config.legal, List.all_cons, List.all_nil, Bool.and_eq_true, Bool.and_true, decide_eq_true_eq]

namespace Machine

theorem step_of_port_nil {s : State} (h : s.port = []) : step s = .next s := by
  rw [step, runPort, h]

theorem step_of_port_cons {s : State} {x : Transaction} {rest : List Transaction} (h : s.port = x :: rest) :
    step s = runTransaction x rest s := by
  rw [step, runPort, h]

theorem runTransaction_of_illegal {s : State} (h : s.cfg.legal = false) (x : Transaction) (rest : List Transaction) :
    runTransaction x rest s = .refused .illegalConfig :=
  if_neg (Bool.eq_false_iff.mp h)

end Machine
end Sys2Proof
end

section
/-!
The obligations of 00_scope.md.
-/
namespace Sys2Proof.Machine

/-- Settles O8: the port decides the idle step, the check before every transaction the refusal, and `Config.legal_iff` the
bounds. -/
theorem idleStepAndIllegalConfig : Obligations.IdleStepAndIllegalConfig := by
  refine ⟨fun _ hidle => step_of_port_nil hidle, ?refusal, Config.legal_iff⟩
  case refusal =>
    intro s x rest hillegal hport
    rw [step_of_port_cons hport, runTransaction_of_illegal hillegal]

end Sys2Proof.Machine
end

section
/-!
SUPPORT. One step, case by case (10_state.md R31): what a next state of the step can be.
-/
namespace Sys2Proof.Machine

theorem runTransaction_cmd {s : State} (h : s.cfg.legal = true) (w : Word) (now : Time) (inp : Sample)
    (rest : List Transaction) :
    runTransaction (.cmd w now inp) rest s = runDecoded (decode s.cfg.diagPresent w) (present s now inp rest) :=
  if_pos h

theorem runTransaction_reset {s : State} (h : s.cfg.legal = true) (rest : List Transaction) :
    runTransaction .reset rest s = .next (State.afterReset s.cfg rest) :=
  if_pos h

/-- A decoded word runs its command, or is rejected with the result word alone written. -/
theorem runDecoded_next {d : Decoded} {s t : State} (h : runDecoded d s = .next t) :
    Rejected s t ∨ ∃ i, exec i s = .next t := by
  cases d with
  | instr i => exact .inr ⟨i, h⟩
  | illegalOpcode => exact .inl ⟨.illegalOpcode, by decide, (reject_eq_next _ _ _).mp h⟩
  | reservedField => exact .inl ⟨.reservedField, by decide, (reject_eq_next _ _ _).mp h⟩

/-- Everything a step can do: nothing, a Reset, or a command word presented, whose command is rejected or completes. -/
theorem step_next {s t : State} (h : step s = .next t) :
    t = s ∨ (∃ rest, t = State.afterReset s.cfg rest) ∨
      ∃ now inp rest, Rejected (present s now inp rest) t ∨ ∃ i, Completed i (present s now inp rest) t := by
  match hp : s.port with
  | [] =>
    rw [step_of_port_nil hp] at h
    exact .inl (Host.Outcome.next.inj h).symm
  | x :: rest =>
    rw [step_of_port_cons hp] at h
    cases hl : s.cfg.legal with
    | false => rw [runTransaction_of_illegal hl] at h; cases h
    | true =>
      cases x with
      | reset =>
        rw [runTransaction_reset hl] at h
        exact .inr (.inl ⟨rest, (Host.Outcome.next.inj h).symm⟩)
      | cmd w now inp =>
        rw [runTransaction_cmd hl] at h
        refine .inr (.inr ⟨now, inp, rest, ?_⟩)
        rcases runDecoded_next h with hr | ⟨i, hi⟩
        · exact .inl hr
        · exact (exec_next hi).imp_right fun hc => ⟨i, hc⟩

end Sys2Proof.Machine
end

section
/-!
SUPPORT. The invariant of one unit (10_state.md R38), read state by state, and kept by every operation of a unit.
-/
namespace Sys2Proof.Machine

open Sys2Proof.Safety

/-- A clamped setpoint is in range (10_state.md R38.1). -/
theorem amp16_range (dat : BitVec 16) : 20 ≤ (amp16 dat).toNat ∧ (amp16 dat).toNat ≤ 100 := by
  have hlo : 20 ≤ clamp dat.toInt Config.ampMin Config.ampMax := by simp [clamp, Config.ampMin, Config.ampMax]
  have hhi : clamp dat.toInt Config.ampMin Config.ampMax ≤ 100 := by simp [clamp, Config.ampMin, Config.ampMax]
  simp only [amp16, BitVec.toNat_ofInt]
  omega

/-- What R38.2 to R38.5 and log entry 12 leave of the outputs, the pulse and the request in each state of a unit. -/
def StatePosture (u : UnitState) : Prop :=
  match u.state with
  | .idle => u.startOut = false ∧ u.running = false ∧ u.pulse = false ∧ (u.pending = .none ∨ u.pending = .start)
  | .starting => u.startOut = true ∧ u.running = false ∧ u.pulse = false ∧ (u.pending = .none ∨ u.pending = .stop)
  | .running => u.startOut = true ∧ u.pulse = false ∧ (u.pending = .none ∨ u.pending = .stop)
  | .stopping => u.startOut = false ∧ u.pulse = false ∧ u.pending = .none
  | .fault => u.startOut = false ∧ u.running = false ∧ (u.pending = .none ∨ u.pending = .reset ∨ u.pending = .clear) ∧
      (u.pulse = true → u.pending = .none)
  | .unknown => u.startOut = false ∧ u.running = false ∧ u.pulse = false ∧ u.pending = .none

/-- The conditions of R38 and log entry 12 on the drive of a unit are the posture of its state. -/
theorem statePosture_iff (u : UnitState) : StatePosture u ↔
    RunningOnlyWhenDriven u ∧ StartOutMatchesState u ∧ (u.pulse = true → u.state = .fault) ∧ PendingMatchesState u ∧
      NoRequestDuringPulse u := by
  simp only [StatePosture, RunningOnlyWhenDriven, StartOutMatchesState, PendingMatchesState, NoRequestDuringPulse]
  cases u.state <;> cases u.pending <;> simp <;> grind

theorem unitInv_iff (i : Chan) (u : UnitState) :
    UnitInv i u ↔ u.id = BitVec.ofNat 2 i.val ∧ AmpInRange u ∧ u.resetOut = u.pulse ∧ StatePosture u := by
  rw [statePosture_iff]
  constructor
  · rintro ⟨hid, hamp, hrun, hso, ⟨hreset, hpulse⟩, hpend, hnone⟩
    exact ⟨hid, hamp, hreset, hrun, hso, hpulse, hpend, hnone⟩
  · rintro ⟨hid, hamp, hreset, hrun, hso, hpulse, hpend, hnone⟩
    exact ⟨hid, hamp, hrun, hso, ⟨hreset, hpulse⟩, hpend, hnone⟩

section
variable {i : Chan} {u v : UnitState}

/-- The invariant of a unit reads eight of its fields. -/
theorem unitInv_congr (h : UnitInv i u) (hid : v.id = u.id) (hamp : v.amp = u.amp) (hstate : v.state = u.state)
    (hrun : v.running = u.running) (hso : v.startOut = u.startOut) (hro : v.resetOut = u.resetOut)
    (hpend : v.pending = u.pending) (hpulse : v.pulse = u.pulse) : UnitInv i v := by
  simp only [UnitInv, AmpInRange, RunningOnlyWhenDriven, StartOutMatchesState, PulseOnlyInFault, PendingMatchesState,
    NoRequestDuringPulse, hid, hamp, hstate, hrun, hso, hro, hpend, hpulse]
  exact h

theorem unitInv_afterReset (i : Chan) : UnitInv i (UnitState.afterReset i) :=
  (unitInv_iff _ _).mpr ⟨rfl, (by decide : 20 ≤ 20 ∧ 20 ≤ 100), rfl, rfl, rfl, rfl, rfl⟩

theorem unitInv_afterInit (now0 : Time) (i : Chan) : UnitInv i (unitAfterInit now0 i) :=
  (unitInv_iff _ _).mpr ⟨rfl, (by decide : 20 ≤ 20 ∧ 20 ≤ 100), rfl, rfl, rfl, rfl, .inl rfl⟩

theorem unitInv_amp16 (h : UnitInv i u) (dat : BitVec 16) : UnitInv i { u with amp := amp16 dat } := by
  obtain ⟨hid, -, hrest⟩ := h
  exact ⟨hid, amp16_range dat, hrest⟩

/-- A request that its state admits keeps the invariant. -/
theorem unitInv_request (h : UnitInv i u) {p : Pending} (hp : StatePosture { u with pending := p }) :
    UnitInv i { u with pending := p } := by
  obtain ⟨hid, hamp, hreset, -⟩ := (unitInv_iff i u).mp h
  exact (unitInv_iff _ _).mpr ⟨hid, hamp, hreset, hp⟩

theorem unitInv_statePosture (h : UnitInv i u) : StatePosture u := by
  obtain ⟨-, -, -, hp⟩ := (unitInv_iff i u).mp h
  exact hp

theorem unitInv_uStart (h : UnitInv i u) : UnitInv i (uStart u) := by
  have hp := unitInv_statePosture h
  unfold uStart
  split
  · next hok =>
    obtain ⟨hs, -, -⟩ := (uStartOk_iff u).mp hok
    refine unitInv_request h ?_
    simp only [StatePosture, hs] at hp ⊢
    simp [hp]
  · exact h

theorem unitInv_uStop (h : UnitInv i u) : UnitInv i (uStop u) := by
  have hp := unitInv_statePosture h
  unfold uStop
  split
  · next hok =>
    refine unitInv_request h ?_
    rcases (uStopOk_iff u).mp hok with ⟨hs | hs, -⟩ | ⟨hs, -⟩ <;> simp only [StatePosture, hs] at hp ⊢ <;> simp [hp]
  · exact h

theorem unitInv_uEstop (h : UnitInv i u) (now : Time) : UnitInv i (uEstop now u) := by
  obtain ⟨hid, hamp, -⟩ := h
  refine (unitInv_iff _ _).mpr ⟨hid, hamp, rfl, ?_⟩
  by_cases hf : u.state = .fault ∨ u.state = .unknown <;> simp [StatePosture, uEstop, hf]

theorem unitInv_enterFault (h : UnitInv i u) (now : Time) : UnitInv i (enterFault now u) := by
  obtain ⟨hid, hamp, -⟩ := h
  exact (unitInv_iff _ _).mpr ⟨hid, hamp, rfl, by simp [StatePosture, enterFault]⟩

theorem unitInv_forceUnit (h : UnitInv i u) (now : Time) (x : UState) : UnitInv i (forceUnit now x u) := by
  obtain ⟨hid, hamp, -⟩ := h
  exact (unitInv_iff _ _).mpr ⟨hid, hamp, rfl, by cases x <;> simp [StatePosture, forceUnit]⟩

/-- Every way the fault exit of `u` can end (40_unit_controller.md R76, 60_exceptions.md R115). -/
inductive FaultExitOutcome (now : Time) (u : UnitState) : UnitState → Prop
  /-- A pulse goes on, or there is nothing to do. -/
  | waiting (h : u.pulse = true ∨ (u.pending ≠ .reset ∧ u.pending ≠ .clear)) : FaultExitOutcome now u u
  /-- The pulse ends, and the unit stays in FAULT. -/
  | pulseFailed (h : u.pulse = true) : FaultExitOutcome now u { u with pulse := false, resetOut := false }
  /-- The pulse ends, and OVL is reset. -/
  | pulseDone (h : u.pulse = true) :
      FaultExitOutcome now u { u with pulse := false, resetOut := false, faults := 0, state := .idle, tState := now }
  /-- The request fails its second check. -/
  | requestFailed (h : u.pulse = false) (hp : u.pending = .reset ∨ u.pending = .clear) :
      FaultExitOutcome now u { u with pending := .none }
  /-- A reset starts its pulse. -/
  | pulseStarted (h : u.pulse = false) (hp : u.pending = .reset) :
      FaultExitOutcome now u { u with pending := .none, pulse := true, resetOut := true, tState := now }
  /-- A clear leaves OVL latched. -/
  | clearedButOvl (h : u.pulse = false) (hp : u.pending = .clear) :
      FaultExitOutcome now u { u with pending := .none, faults := u.faults &&& FaultClass.bit .ovl }
  /-- A clear leaves nothing latched. -/
  | cleared (h : u.pulse = false) (hp : u.pending = .clear) (hf : u.faults &&& FaultClass.bit .ovl = 0#5) :
      FaultExitOutcome now u
        { u with pending := .none, faults := u.faults &&& FaultClass.bit .ovl, state := .idle, tState := now }

theorem faultExit_outcome (cfg : Config) (now : Time) (u : UnitState) :
    FaultExitOutcome now u (faultExit cfg now u) := by
  unfold faultExit leaveFault
  dsimp only
  by_cases hpulse : u.pulse = true
  · rw [if_pos hpulse]
    split
    · split
      · exact .pulseDone hpulse
      · exact .pulseFailed hpulse
    · exact .waiting (.inl hpulse)
  · rw [if_neg hpulse]
    replace hpulse : u.pulse = false := Bool.eq_false_iff.mpr hpulse
    split
    · next hp =>
      split
      · exact .pulseStarted hpulse hp
      · exact .requestFailed hpulse (.inl hp)
    · next hp =>
      split
      · split
        · next hf => exact .cleared hpulse hp hf
        · exact .clearedButOvl hpulse hp
      · exact .requestFailed hpulse (.inr hp)
    all_goals next hp => exact .waiting (.inr (by simp [hp]))

theorem unitInv_faultExit (h : UnitInv i u) (hs : u.state = .fault) (cfg : Config) (now : Time) :
    UnitInv i (faultExit cfg now u) := by
  obtain ⟨hid, hamp, hreset, hp⟩ := (unitInv_iff i u).mp h
  simp only [StatePosture, hs] at hp
  have ho := faultExit_outcome cfg now u
  generalize faultExit cfg now u = w at ho
  cases ho with
  | waiting => exact h
  | pulseFailed | pulseDone | requestFailed | pulseStarted | clearedButOvl | cleared =>
    refine (unitInv_iff _ _).mpr ⟨hid, hamp, ?_⟩
    simp_all [StatePosture]

/-- Outside FAULT the transition keeps the identity and the setpoint. -/
theorem commit_id_amp (hs : u.state ≠ .fault) (cfg : Config) (now : Time) :
    (commit cfg now u).id = u.id ∧ (commit cfg now u).amp = u.amp := by
  unfold commit
  split
  · contradiction
  all_goals (repeat' split) <;> exact ⟨rfl, rfl⟩

theorem unitInv_commit (h : UnitInv i u) (cfg : Config) (now : Time) : UnitInv i (commit cfg now u) := by
  obtain ⟨hid, hamp, hreset, hp⟩ := (unitInv_iff i u).mp h
  by_cases hf : u.state = .fault
  · rw [commit, hf]
    exact unitInv_faultExit h hf cfg now
  · obtain ⟨eid, eamp⟩ := commit_id_amp hf cfg now
    refine (unitInv_iff _ _).mpr ⟨eid.trans hid, by rw [AmpInRange, eamp]; exact hamp, ?_⟩
    cases hs : u.state with
    | fault => contradiction
    | idle | starting | running | stopping | unknown =>
      simp only [StatePosture, hs] at hp
      simp only [commit, hs, commitStop]
      (repeat' split) <;> simp_all [StatePosture]

end

/-- Telemetry, debounce and latching leave every field the invariant reads. -/
theorem Detected.unitInv {s : State} {i : Chan} {v : UnitState} (d : Detected s i v) (h : UnitInv i (s.unit i)) :
    UnitInv i v :=
  unitInv_congr h d.id d.amp d.state d.running d.startOut d.resetOut d.pending d.pulse

theorem unitInv_cycleUnit {s : State} {i : Chan} (h : UnitInv i (s.unit i)) : UnitInv i (cycleUnit s i) := by
  obtain ⟨v, d⟩ := exists_detected s i
  rcases d.cases with ⟨e, -⟩ | ⟨e, -⟩ <;> rw [e]
  · exact unitInv_enterFault (d.unitInv h) _
  · exact unitInv_commit (d.unitInv h) _ _

theorem Stopped.unitInv {i : Chan} {u w : UnitState} (hw : Stopped u w) (h : UnitInv i u) : UnitInv i w := by
  induction hw with
  | none => exact h
  | stop _ ih => exact unitInv_uStop ih

end Sys2Proof.Machine
end

section
/-!
SUPPORT. The invariant of the Master Coordinator (10_state.md R38.7, R38.8), kept by the sequences' operations and by the
master update.
-/
namespace Sys2Proof.Machine

open Sys2Proof.Safety

theorem chanMask_eq_zero_iff (a : ChanMask) : a = 0#4 ↔ ∀ j : Chan, hasChan a j = false :=
  ⟨fun h j => by simp [h, hasChan], fun h => chanMask_ext fun j => (h j).trans (by simp [hasChan])⟩

/-- One channel set lies within another. -/
theorem chanMask_within_iff (a b : ChanMask) :
    a &&& ~~~b = 0#4 ↔ ∀ j : Chan, hasChan a j = true → hasChan b j = true := by
  rw [chanMask_eq_zero_iff]
  refine forall_congr' fun j => ?_
  rw [hasChan_and, hasChan_not]
  cases hasChan a j <;> simp

section
variable {m : McState}

/-- No sequence: the shape of R38.8. -/
theorem masterInv_of_no_sequence (ha : m.active = 0#4) (hc : m.confirmed = 0#4) (hw : m.stopWait = 0#4) : MasterInv m :=
  ⟨by simp [hc], fun _ => ⟨ha, hc, hw⟩⟩

/-- In the sequencing states the confirmed channels lie within the active ones, and that is all. -/
theorem masterInv_of_sequencing (hs : m.state = .coordinatedStart ∨ m.state = .running)
    (hc : ∀ j : Chan, hasChan m.confirmed j = true → hasChan m.active j = true) : MasterInv m :=
  ⟨(chanMask_within_iff _ _).mpr hc, fun h => by rcases hs with hs | hs <;> simp [hs] at h⟩

theorem masterInv_confirmed (h : MasterInv m) (j : Chan) (hj : hasChan m.confirmed j = true) : hasChan m.active j = true :=
  (chanMask_within_iff _ _).mp h.1 j hj

/-- The invariant of the MC reads its state and the three sets of the sequence. -/
theorem masterInv_congr {m' : McState} (h : MasterInv m) (hs : m'.state = m.state) (ha : m'.active = m.active)
    (hc : m'.confirmed = m.confirmed) (hw : m'.stopWait = m.stopWait) : MasterInv m' := by
  simp only [MasterInv, hs, ha, hc, hw]
  exact h

theorem masterInv_isolate (c : Option Chan) (f : FaultMask) (b : Bool) (s : State) : MasterInv (isolate c f b s).m := by
  rw [isolate_eq]
  exact masterInv_of_no_sequence rfl rfl rfl

theorem masterInv_stopChannels {s : State} (msk : ChanMask) (h : MasterInv s.m)
    (hs : s.m.state = .running ∨ s.m.state = .coordinatedStart) : MasterInv (stopChannels msk s).m := by
  rw [stopChannels_eq]
  refine masterInv_of_sequencing hs.symm fun j hj => ?_
  simp only [hasChan_and, Bool.and_eq_true] at hj ⊢
  exact ⟨masterInv_confirmed h j hj.1, hj.2⟩

theorem masterInv_pollProgress {s : State} (h : MasterInv s.m) : MasterInv (pollProgress s) := by
  refine ⟨(chanMask_within_iff _ _).mpr fun j hj => ?_, fun hidle => ?_⟩
  · simp only [pollProgress, hasChan_or, hasChan_chanSet, Bool.or_eq_true, Bool.and_eq_true] at hj ⊢
    rcases hj with hj | ⟨hj, -⟩
    · exact masterInv_confirmed h j hj
    · exact hj
  · obtain ⟨ha, hc, hw⟩ := h.2 hidle
    refine ⟨ha, ?_, by simp [pollProgress, hw]⟩
    rw [chanMask_eq_zero_iff]
    intro j
    simp [pollProgress, ha, hc, hasChan_chanSet, (chanMask_eq_zero_iff _).mp rfl j]

theorem masterInv_completeStart (h : MasterInv m) : MasterInv (completeStart m) := by
  unfold completeStart
  split
  · exact masterInv_of_sequencing (.inr rfl) fun j hj => masterInv_confirmed h j hj
  · exact h

/-- A sequence that is over leaves no channel behind. -/
theorem masterInv_sequenceDone (h : MasterInv m) (hd : sequenceDone m = true) : MasterInv { m with state := .idle } := by
  simp only [sequenceDone, Bool.and_eq_true, decide_eq_true_eq] at hd
  obtain ⟨⟨-, ha⟩, hw⟩ := hd
  have hnone : ∀ j : Chan, hasChan m.confirmed j = false := fun j =>
    Bool.eq_false_iff.mpr fun hj => by simpa [ha, hasChan] using masterInv_confirmed h j hj
  have hc : m.confirmed = 0#4 := (chanMask_eq_zero_iff _).mpr hnone
  exact masterInv_of_no_sequence ha hc hw

end

/-- Every way the master update of `s` can end (42_master_coordinator.md R99). -/
inductive MasterOutcome (s : State) : State → Prop
  /-- EMERGENCY_STOP is not left. -/
  | stopped (he : s.m.state = .emergencyStop) : MasterOutcome s s
  /-- Fault polling isolates. -/
  | polled (he : s.m.state ≠ .emergencyStop) (hn : ∃ i, NewlyFaulted s.m i (s.unit i)) :
      MasterOutcome s (chans.foldl pollFault s)
  /-- FAULT_ISOLATION with no new fault. -/
  | isolated (hf : s.m.state = .faultIsolation) (hn : ∀ i, ¬ NewlyFaulted s.m i (s.unit i)) : MasterOutcome s s
  /-- The sequence is over. -/
  | done (he : s.m.state ≠ .emergencyStop) (hf : s.m.state ≠ .faultIsolation)
      (hn : ∀ i, ¬ NewlyFaulted s.m i (s.unit i)) (hd : sequenceDone (pollProgress s) = true) :
      MasterOutcome s { s with m := { pollProgress s with state := .idle } }
  /-- The sequence is late. -/
  | late (he : s.m.state ≠ .emergencyStop) (hf : s.m.state ≠ .faultIsolation)
      (hn : ∀ i, ¬ NewlyFaulted s.m i (s.unit i)) :
      MasterOutcome s (isolate none 0 true { s with m := completeStart (pollProgress s) })
  /-- The sequence goes on. -/
  | going (he : s.m.state ≠ .emergencyStop) (hf : s.m.state ≠ .faultIsolation)
      (hn : ∀ i, ¬ NewlyFaulted s.m i (s.unit i)) : MasterOutcome s { s with m := completeStart (pollProgress s) }

theorem masterUpdate_outcome (s : State) : MasterOutcome s (masterUpdate s) := by
  by_cases he : s.m.state = .emergencyStop
  · have e : masterUpdate s = s := by simp [masterUpdate, he]
    rw [e]
    exact .stopped he
  by_cases hn : ∃ i, NewlyFaulted s.m i (s.unit i)
  · rw [masterUpdate_fault s hn he]
    exact .polled he hn
  replace hn : ∀ i, ¬ NewlyFaulted s.m i (s.unit i) := fun i hi => hn ⟨i, hi⟩
  rw [masterUpdate_quiet s hn]
  by_cases hf : s.m.state = .faultIsolation
  · rw [if_pos (.inr hf)]
    exact .isolated hf hn
  rw [if_neg (by simp [he, hf])]
  split
  · next hd => exact .done he hf hn hd
  · split
    · exact .late he hf hn
    · exact .going he hf hn

/-- The completion keeps the state, or makes a coordinated start RUNNING. -/
theorem completeStart_state (m : McState) :
    (completeStart m).state = m.state ∨ (m.state = .coordinatedStart ∧ (completeStart m).state = .running) := by
  unfold completeStart
  split
  · next h => exact .inr ⟨h.1, rfl⟩
  · exact .inl rfl

/-- No master update enters EMERGENCY_STOP, and in it nothing changes. -/
theorem masterUpdate_emergencyStop {s : State} (h : (masterUpdate s).m.state = .emergencyStop) :
    s.m.state = .emergencyStop ∧ masterUpdate s = s := by
  have ho := masterUpdate_outcome s
  generalize masterUpdate s = t at h ho
  cases ho with
  | stopped he => exact ⟨he, rfl⟩
  | isolated => exact ⟨h, rfl⟩
  | polled _ hn =>
    obtain ⟨i, hi⟩ := hn
    rw [((polled_all s).isolates ⟨i, mem_polled i, hi⟩).1] at h
    cases h
  | done => cases h
  | late => rw [isolate_eq] at h; cases h
  | going he _ _ =>
    rcases completeStart_state (pollProgress s) with e | ⟨-, e⟩
    · exact absurd (e.symm.trans h) he
    · rw [e] at h; cases h

theorem masterInv_masterUpdate {s : State} (h : MasterInv s.m) : MasterInv (masterUpdate s).m := by
  have ho := masterUpdate_outcome s
  generalize masterUpdate s = t at ho
  cases ho with
  | stopped | isolated => exact h
  | polled _ hn =>
    obtain ⟨i, hi⟩ := hn
    obtain ⟨-, ha, hc, hw, -⟩ := (polled_all s).isolates ⟨i, mem_polled i, hi⟩
    exact masterInv_of_no_sequence ha hc hw
  | done _ _ _ hd => exact masterInv_sequenceDone (masterInv_pollProgress h) hd
  | late => exact masterInv_isolate ..
  | going => exact masterInv_completeStart (masterInv_pollProgress h)

end Sys2Proof.Machine
end

section
/-!
SUPPORT. The invariant of the whole state (10_state.md R38), kept by every accepted command.
-/
namespace Sys2Proof.Machine

open Sys2Proof.Safety

/-- No unit runs, starts or is about to: what EMERGENCY_STOP asks of each unit (41_resource_coordinator.md R87). -/
abbrev AtRest (u : UnitState) : Prop :=
  (u.state = .idle ∨ u.state = .fault ∨ u.state = .unknown) ∧ u.pending ≠ .start

section
variable {u : UnitState}

theorem atRest_uStop (h : AtRest u) : AtRest (uStop u) := by
  refine ⟨by rw [uStop_state]; exact h.1, ?_⟩
  unfold uStop
  split
  · split <;> simp
  · exact h.2

theorem atRest_uEstop (now : Time) (u : UnitState) : AtRest (uEstop now u) := by
  by_cases hf : u.state = .fault ∨ u.state = .unknown <;> simp [AtRest, uEstop, hf]

theorem atRest_forceUnit {x : UState} (hx : forcedRunning x ≠ true) (now : Time) (u : UnitState) :
    AtRest (forceUnit now x u) := by
  cases x <;> simp_all [AtRest, forcedRunning, forceUnit]

theorem atRest_faultExit (h : AtRest u) (cfg : Config) (now : Time) : AtRest (faultExit cfg now u) := by
  have ho := faultExit_outcome cfg now u
  generalize faultExit cfg now u = w at ho
  cases ho with
  | waiting | pulseFailed => exact h
  | pulseDone => exact ⟨.inl rfl, h.2⟩
  | requestFailed | pulseStarted | clearedButOvl => exact ⟨h.1, nofun⟩
  | cleared => exact ⟨.inl rfl, nofun⟩

theorem atRest_commit (h : AtRest u) (cfg : Config) (now : Time) : AtRest (commit cfg now u) := by
  obtain ⟨hs | hs | hs, hp⟩ := id h
  · simpa only [commit, hs, hp, if_false] using h
  · simpa only [commit, hs] using atRest_faultExit h cfg now
  · simpa only [commit, hs] using h

end

theorem atRest_cycleUnit {s : State} {i : Chan} (h : AtRest (s.unit i)) : AtRest (cycleUnit s i) := by
  obtain ⟨v, d⟩ := exists_detected s i
  have hv : AtRest v := by rw [AtRest, d.state, d.pending]; exact h
  rcases d.cases with ⟨e, -⟩ | ⟨e, -⟩ <;> rw [e]
  · exact ⟨.inr (.inl rfl), nofun⟩
  · exact atRest_commit hv _ _

/-- A unit at rest does not run. -/
theorem running_of_atRest {i : Chan} {u : UnitState} (h : UnitInv i u) (hr : AtRest u) : u.running = false := by
  obtain ⟨-, -, hrun, -⟩ := h
  obtain ⟨hs, -⟩ := hr
  by_contra hne
  have := hrun (by simpa using hne)
  rcases hs with hs | hs | hs <;> simp [hs] at this

/-- Once initialised nothing is left of the posture before INIT. -/
theorem inv_of_initialized {s : State} (hi : s.sys.initialized = true) (hu : ∀ i : Chan, UnitInv i (s.unit i))
    (hm : MasterInv s.m) (hrc : RcInv s.cfg s.rc)
    (he : s.m.state = .emergencyStop → s.rc.duty = 0#16 ∧ ∀ i : Chan, AtRest (s.unit i)) : Inv s :=
  ⟨hu, hm, hrc, fun h => by simp [hi] at h, he⟩

/-- An operation of one unit that keeps the unit's invariant, and its rest in EMERGENCY_STOP. -/
theorem inv_onUnit {s : State} (h : Inv s) (hi : s.sys.initialized = true) (i : Chan) (f : UnitState → UnitState)
    (hu : UnitInv i (s.unit i) → UnitInv i (f (s.unit i)))
    (he : s.m.state = .emergencyStop → AtRest (s.unit i) → AtRest (f (s.unit i))) : Inv (s.onUnit i f) := by
  obtain ⟨hunits, hm, hrc, -, hestop⟩ := h
  refine inv_of_initialized hi (fun j => ?_) hm hrc fun hes => ⟨(hestop hes).1, fun j => ?_⟩
  · rw [State.onUnit_get]
    split
    · next e => subst e; exact hu (hunits _)
    · exact hunits j
  · rw [State.onUnit_get]
    split
    · next e => subst e; exact he hes ((hestop hes).2 _)
    · exact (hestop hes).2 j

/-- A change of the MC outside EMERGENCY_STOP, or that keeps its state. -/
theorem inv_withM {s : State} (h : Inv s) (hi : s.sys.initialized = true) (m : McState) (hm : MasterInv m)
    (he : m.state = .emergencyStop → s.m.state = .emergencyStop) : Inv { s with m := m } := by
  obtain ⟨hunits, -, hrc, -, hestop⟩ := h
  exact inv_of_initialized hi hunits hm hrc fun hes => hestop (he hes)

/-- Stops of any units keep the invariant of every unit, with an MC that is not in EMERGENCY_STOP. -/
theorem inv_stops {s : State} (h : Inv s) (hi : s.sys.initialized = true) {u : Vector UnitState 4} {m : McState}
    (hu : ∀ j, Stopped (s.unit j) (chanAt u j)) (hm : MasterInv m) (he : m.state ≠ .emergencyStop) :
    Inv { s with u := u, m := m } := by
  obtain ⟨hunits, -, hrc, -, -⟩ := h
  exact inv_of_initialized hi (fun j => (hu j).unitInv (hunits j)) hm hrc fun hes => absurd hes he

theorem inv_stopChannels {s : State} (h : Inv s) (hi : s.sys.initialized = true) (msk : ChanMask)
    (hs : s.m.state = .running ∨ s.m.state = .coordinatedStart) : Inv (stopChannels msk s) := by
  obtain ⟨-, hm, -⟩ := id h
  replace hm := masterInv_stopChannels msk hm hs
  rw [stopChannels_eq] at hm ⊢
  refine inv_stops h hi (fun j => ?_) hm (by rcases hs with e | e <;> simp [e])
  rw [chanAt_perChan]
  split
  · exact .stop .none
  · exact .none

/-- The recency order after a broadcast. -/
theorem broadcast_perm : ([3, 2, 1, 0] : List Chan).Perm chans := by decide

/-- Moving a channel to the front keeps the recency order a permutation. -/
theorem perm_moveToFront {order : List Chan} (h : order.Perm chans) (i : Chan) :
    (i :: order.filter fun j => j ≠ i).Perm chans := by
  have hf : (order.filter fun j => j ≠ i).Perm (chans.filter fun j => j ≠ i) := h.filter _
  refine (hf.cons i).trans ?_
  fin_cases i <;> decide

theorem rcInv_moveToFront {cfg : Config} {rc : RcState} (h : RcInv cfg rc) (i : Chan) :
    RcInv cfg { rc with order := i :: rc.order.filter fun j => j ≠ i } := by
  obtain ⟨hduty, horder, hbcast⟩ := h
  exact ⟨hduty, perm_moveToFront horder i, hbcast⟩

theorem inv_setSetpoint {s : State} (h : Inv s) (hi : s.sys.initialized = true) (dat : BitVec 16) (i : Chan) :
    Inv (setSetpoint (amp16 dat) s i) := by
  obtain ⟨hu, hm, hrc, -, he⟩ := inv_onUnit h hi i (fun u => { u with amp := amp16 dat })
    (fun hu => unitInv_amp16 hu dat) (fun _ hr => hr)
  exact inv_of_initialized hi hu hm (rcInv_moveToFront hrc i) he

theorem inv_controlCycle {s : State} (h : Inv s) (hi : s.sys.initialized = true) : Inv (controlCycle s) := by
  obtain ⟨hunits, hm, ⟨-, horder, hbcast⟩, -, hestop⟩ := h
  have hu : ∀ i : Chan, UnitInv i ((controlCycle s).unit i) := fun i =>
    (controlCycle_stopped s i).unitInv (unitInv_cycleUnit (hunits i))
  have hmc : MasterInv (controlCycle s).m := by
    rw [controlCycle_eq]
    exact masterInv_masterUpdate (by rw [beforeMaster_m]; exact hm)
  refine inv_of_initialized (by rw [controlCycle_sys]; exact hi) hu hmc ⟨?_, ?_, ?_⟩ fun hes => ?_
  · rw [controlCycle_duty]
    exact arbitrate_le _
  · rw [controlCycle_order]
    exact horder
  · rw [controlCycle_bcast]
    exact hbcast
  · rw [controlCycle_eq] at hes
    obtain ⟨hes, e⟩ := masterUpdate_emergencyStop hes
    rw [beforeMaster_m] at hes
    have hrest : ∀ i, AtRest ((controlCycle s).unit i) := fun i => by
      rw [controlCycle_eq, e, beforeMaster_unit]
      exact atRest_cycleUnit ((hestop hes).2 i)
    exact ⟨by rw [controlCycle_duty, arbitrate_none_running fun i => running_of_atRest (hu i) (hrest i)]; rfl, hrest⟩

theorem inv_afterReset (cfg : Config) (port : List Transaction) : Inv (State.afterReset cfg port) := by
  refine ⟨fun i => ?_, masterInv_of_no_sequence rfl rfl rfl, ⟨Nat.zero_le _, .refl _, .inl rfl⟩,
    fun _ => ⟨fun i => ?_, rfl, rfl⟩, nofun⟩
  · rw [State.afterReset, unit_mk, chanAt_perChan]
    exact unitInv_afterReset i
  · rw [State.afterReset, unit_mk, chanAt_perChan]
    rfl

theorem inv_afterInit (now0 : Time) (s : State) : Inv (afterInit now0 s) := by
  refine inv_of_initialized rfl (fun i => ?_) (masterInv_of_no_sequence rfl rfl rfl)
    ⟨Nat.zero_le _, .refl _, .inl rfl⟩ nofun
  rw [afterInit, unit_mk, chanAt_perChan]
  exact unitInv_afterInit now0 i

/-- Every accepted command keeps the invariant. -/
theorem Accepted.inv {i : Instr} {s x : State} {v : BitVec 16} (ha : Accepted i s v x) (h : Inv s) : Inv x := by
  obtain ⟨hunits, hm, hrc, -, hestop⟩ := id h
  cases ha with
  | nop | readReg | getStatus | isSafe => exact h
  | init => exact inv_afterInit _ _
  | tick _ hi => exact inv_controlCycle h hi
  | start _ _ i hi _ hg _ =>
    exact inv_onUnit h hi i _ unitInv_uStart fun hes => absurd hes (startGate_eq_none.mp hg).1
  | stop _ _ i hi _ _ => exact inv_onUnit h hi i _ unitInv_uStop fun _ => atRest_uStop
  | setAmp _ _ dat i hi _ => exact inv_setSetpoint h hi dat i
  | resetOvl _ _ i hi _ hs =>
    obtain ⟨hst, -, -, hpulse, -⟩ := (resetOvlOk_iff _).mp hs
    refine inv_onUnit h hi i _ (fun hu => unitInv_request hu ?_) fun _ hr => ⟨hr.1, by simp⟩
    have hp := unitInv_statePosture hu
    simp only [StatePosture, hst] at hp ⊢
    simp [hp, hpulse]
  | clearFaults _ _ i hi _ hs =>
    obtain ⟨hst, hpulse, -⟩ := (clearFaultsOk_iff _).mp hs
    refine inv_onUnit h hi i _ (fun hu => unitInv_request hu ?_) fun _ hr => ⟨hr.1, by simp⟩
    have hp := unitInv_statePosture hu
    simp only [StatePosture, hst] at hp ⊢
    simp [hp, hpulse]
  | ampBcast _ dat hi =>
    refine inv_of_initialized hi (fun j => ?_) hm ⟨hrc.1, broadcast_perm, .inr (amp16_range dat)⟩
      fun hes => ⟨(hestop hes).1, fun j => ?_⟩
    · rw [unit_mk, chanAt_perChan]
      exact unitInv_amp16 (hunits j) dat
    · rw [unit_mk, chanAt_perChan]
      exact (hestop hes).2 j
  | coordStart _ msk hi _ _ _ _ =>
    refine inv_of_initialized hi (fun j => ?_) (masterInv_of_sequencing (.inl rfl) (by simp [hasChan])) hrc nofun
    rw [unit_mk, chanAt_perChan]
    split
    · exact unitInv_uStart (hunits j)
    · exact hunits j
  | confirm _ _ i hi _ hms hact _ =>
    refine inv_withM h hi _ (masterInv_of_sequencing (.inl hms) fun j hj => ?_) id
    simp only [hasChan_or, hasChan_chanBit, Bool.or_eq_true, decide_eq_true_eq] at hj
    rcases hj with hj | rfl
    · exact masterInv_confirmed hm j hj
    · exact hact
  | coordStop _ msk hi _ hms => exact inv_stopChannels h hi msk hms
  | unitStart _ _ i hi _ _ hms _ =>
    have hstart : Inv (s.onUnit i uStart) := inv_onUnit h hi i _ unitInv_uStart fun hes => by simp [hms] at hes
    refine inv_withM hstart hi _ (masterInv_of_sequencing (.inr hms) fun j hj => ?_) id
    rw [hasChan_or, masterInv_confirmed hm j hj, Bool.true_or]
  | unitStop _ _ i hi _ hms => exact inv_stopChannels h hi (chanBit i) (.inl hms)
  | reportRecorded _ _ _ i hi _ _ _ => exact inv_withM h hi _ (masterInv_congr hm rfl rfl rfl rfl) id
  | reportIsolated _ _ dat i hi _ _ _ =>
    have hmc := masterInv_isolate (some i) (fmask5 dat) false s
    rw [isolate_eq] at hmc ⊢
    exact inv_stops h hi (fun j => by rw [chanAt_perChan]; exact .stop .none) hmc nofun
  | estop _ hi =>
    refine inv_of_initialized hi (fun j => ?_) (masterInv_of_no_sequence rfl rfl rfl)
      ⟨Nat.zero_le _, hrc.2⟩ fun _ => ⟨rfl, fun j => ?_⟩
    · rw [unit_mk, chanAt_perChan]
      exact unitInv_uEstop (hunits j) _
    · rw [unit_mk, chanAt_perChan]
      exact atRest_uEstop _ _
  | setInhibit _ _ hi _ => exact inv_withM h hi _ (masterInv_congr hm rfl rfl rfl rfl) id
  | rearm _ hi hms _ =>
    obtain ⟨ha, hc, hw⟩ := hm.2 (.inr (.inr hms))
    exact inv_withM h hi _ (masterInv_of_no_sequence ha hc hw) nofun
  | setSim _ _ _ i _ hi _ _ => exact inv_onUnit h hi i _ id fun _ => id
  | injectFault _ _ _ i _ hi _ _ => exact inv_onUnit h hi i _ id fun _ => id
  | forceState _ _ _ i _ hi _ _ hg =>
    refine inv_onUnit h hi i _ (fun hu => unitInv_forceUnit hu _ _) fun hes _ => atRest_forceUnit (fun hx => ?_) _ _
    exact (startGate_eq_none.mp (hg hx)).1 hes

end Sys2Proof.Machine
end

section
/-!
The obligations of 10_state.md about a step and the invariant.
-/
namespace Sys2Proof.Machine

open Sys2Proof.Safety

/-- The invariant reads neither the ports nor the result word. -/
theorem inv_present {s : State} (h : Inv s) (now : Time) (inp : Sample) (rest : List Transaction) :
    Inv (present s now inp rest) := h

theorem inv_withResult {s : State} (h : Inv s) (r : Option Word) : Inv { s with result := r } := h

/-- A command that is rejected or completes keeps the invariant. -/
theorem Rejected.inv {s t : State} (hr : Rejected s t) (h : Inv s) : Inv t := by
  obtain ⟨c, -, rfl⟩ := hr
  exact inv_withResult h _

theorem Completed.inv {i : Instr} {s t : State} (hc : Completed i s t) (h : Inv s) : Inv t := by
  obtain ⟨v, x, ha, rfl⟩ := hc
  exact inv_withResult (ha.inv h) _

/-- Settles O11: a step does nothing, is a Reset, or runs a command word at the presented inputs, and each keeps the
invariant; a command that is accepted does so operation by operation (`Accepted.inv`). -/
theorem stepKeepsInvariant : Obligations.StepKeepsInvariant := by
  intro s t h hstep
  rcases step_next hstep with rfl | ⟨rest, rfl⟩ | ⟨now, inp, rest, hr | ⟨i, hc⟩⟩
  · exact h
  · exact inv_afterReset _ _
  · exact hr.inv (inv_present h now inp rest)
  · exact hc.inv (inv_present h now inp rest)

/-- Settles O10, field by field. -/
theorem resetSatisfiesInvariant : Obligations.ResetSatisfiesInvariant :=
  ⟨inv_afterReset, inv_afterReset _ _⟩

/-- Settles O6: with a legal configuration the step runs the decoded word where its transaction is presented. -/
theorem stepRunsDecodedCommand : Obligations.StepRunsDecodedCommand := by
  intro s w now inp rest i hlegal hport hdecode
  rw [step_of_port_cons hport, runTransaction_cmd hlegal, hdecode]
  rfl

end Sys2Proof.Machine
end

section
/-!
SUPPORT. What an accepted command writes: the ports never, a unit only by the command's own operation, the recency order and
the inhibit only by the commands named for them (10_state.md R25, R31, 40_unit_controller.md R70, 42_master_coordinator.md
R97).
-/
namespace Sys2Proof.Machine

open Sys2Proof.Safety

section
variable {i : Instr} {s t x : State} {v : BitVec 16}

/-- A command's answer has the fields of a rejected or of a completed command. -/
theorem exec_keeps {P : State → State → Prop} (hrefl : ∀ (s : State) (r : Option Word), P s { s with result := r })
    (hacc : ∀ (x : State) (v : BitVec 16), Accepted i s v x → ∀ r : Option Word, P s { x with result := r })
    (h : exec i s = .next t) : P s t := by
  rcases exec_next h with ⟨c, -, rfl⟩ | ⟨v, x, ha, rfl⟩
  · exact hrefl s _
  · exact hacc x v ha _

theorem Accepted.samePorts (ha : Accepted i s v x) : SamePorts s x := by
  cases ha with
  | tick => exact ⟨controlCycle_cfg s, controlCycle_port s, controlCycle_now s, controlCycle_inp s⟩
  | coordStop | unitStop => rw [stopChannels_eq]; exact ⟨rfl, rfl, rfl, rfl⟩
  | reportIsolated => rw [isolate_eq]; exact ⟨rfl, rfl, rfl, rfl⟩
  | _ => exact ⟨rfl, rfl, rfl, rfl⟩

/-- No command changes the parameters, the inputs or the transactions to come. -/
theorem exec_samePorts (h : exec i s = .next t) : SamePorts s t :=
  exec_keeps (fun _ _ => ⟨rfl, rfl, rfl, rfl⟩) (fun _ _ ha _ => ha.samePorts) h

theorem Accepted.order (ha : Accepted i s v x) (hinit : i ≠ .init) (hset : ∀ a d, i ≠ .setAmp a d)
    (hbcast : ∀ d, i ≠ .ampBcast d) : x.rc.order = s.rc.order := by
  cases ha with
  | init => exact absurd rfl hinit
  | setAmp => exact absurd rfl (hset _ _)
  | ampBcast => exact absurd rfl (hbcast _)
  | tick => exact controlCycle_order s
  | coordStop | unitStop => rw [stopChannels_eq]
  | reportIsolated => rw [isolate_eq]
  | _ => rfl

end

/-- Isolation leaves the inhibit. -/
theorem isolate_inhibit (c : Option Chan) (f : FaultMask) (b : Bool) (s : State) :
    (isolate c f b s).m.inhibit = s.m.inhibit := by
  rw [isolate_eq]

theorem completeStart_inhibit (m : McState) : (completeStart m).inhibit = m.inhibit := by
  rw [completeStart_eq]

theorem masterUpdate_inhibit (s : State) : (masterUpdate s).m.inhibit = s.m.inhibit := by
  have ho := masterUpdate_outcome s
  generalize masterUpdate s = t at ho
  cases ho with
  | stopped | isolated | done => rfl
  | polled _ hn =>
    obtain ⟨i, hi⟩ := hn
    obtain ⟨-, -, -, -, hinhibit, -⟩ := (polled_all s).isolates ⟨i, mem_polled i, hi⟩
    exact hinhibit
  | late => exact (isolate_inhibit ..).trans (completeStart_inhibit _)
  | going => exact completeStart_inhibit _

@[simp] theorem controlCycle_inhibit (s : State) : (controlCycle s).m.inhibit = s.m.inhibit := by
  rw [controlCycle_eq, masterUpdate_inhibit, beforeMaster_m]

section
variable {i : Instr} {s t x : State} {v : BitVec 16}

theorem Accepted.inhibit (ha : Accepted i s v x) (hinit : i ≠ .init) (hset : ∀ d, i ≠ .setInhibit d) :
    x.m.inhibit = s.m.inhibit := by
  cases ha with
  | init => exact absurd rfl hinit
  | setInhibit => exact absurd rfl (hset _)
  | tick => exact controlCycle_inhibit s
  | coordStop | unitStop => rw [stopChannels_eq]
  | reportIsolated => exact isolate_inhibit ..
  | _ => rfl

end

/-- `UnitEffect s j i w`: command i, accepted in s, may leave unit j as w. -/
inductive UnitEffect (s : State) (j : Chan) : Instr → UnitState → Prop
  /-- Nothing of the unit changes but, perhaps, its pending request. -/
  | request (i : Instr) (p : Pending) : UnitEffect s j i { s.unit j with pending := p }
  | init : UnitEffect s j .init (unitAfterInit s.now j)
  /-- The unit's own update, and then perhaps a stop. -/
  | tick (p : Pending) : UnitEffect s j .tick { cycleUnit s j with pending := p }
  | setAmp (idx : BitVec 4) (dat : BitVec 16) :
      UnitEffect s j (.setAmp idx dat) { s.unit j with amp := amp16 dat }
  | ampBcast (dat : BitVec 16) : UnitEffect s j (.ampBcast dat) { s.unit j with amp := amp16 dat }
  | setSim (idx : BitVec 4) (dat : BitVec 16) :
      UnitEffect s j (.setSim idx dat) { s.unit j with sim := bool1 dat }
  | injectFault (idx : BitVec 4) (dat : BitVec 16) :
      UnitEffect s j (.injectFault idx dat) { s.unit j with inj := (s.unit j).inj ||| fmask5 dat }
  | estop : UnitEffect s j .estop (uEstop s.now (s.unit j))
  | forceState (idx : BitVec 4) (dat : BitVec 16) :
      UnitEffect s j (.forceState idx dat) (forceUnit s.now (UState.ofOperand dat) (s.unit j))

section
variable {s : State} {j : Chan} {i : Instr}

theorem UnitEffect.same (i : Instr) : UnitEffect s j i (s.unit j) := .request i (s.unit j).pending

theorem UnitEffect.uStop (i : Instr) : UnitEffect s j i (uStop (s.unit j)) := by
  rw [uStop_eq]; exact .request i _

theorem UnitEffect.uStart (i : Instr) : UnitEffect s j i (uStart (s.unit j)) := by
  rw [uStart_eq]; exact .request i _

/-- The effect of an operation of one unit, on that unit and on the others. -/
theorem UnitEffect.onUnit {ch : Chan} {f : UnitState → UnitState} (h : UnitEffect s j i (f (s.unit j))) :
    UnitEffect s j i ((s.onUnit ch f).unit j) := by
  rw [State.onUnit_get]
  split
  · exact h
  · exact .same i

/-- The effect of an operation of a chosen set of units. -/
theorem UnitEffect.ite {p : Bool} {w : UnitState} (h : UnitEffect s j i w) :
    UnitEffect s j i (if p then w else s.unit j) := by
  split
  · exact h
  · exact .same i

end

/-- Everything an accepted command can do to a unit. -/
theorem Accepted.unitEffect {i : Instr} {s x : State} {v : BitVec 16} (ha : Accepted i s v x) (j : Chan) :
    UnitEffect s j i (x.unit j) := by
  cases ha with
  | nop | readReg | getStatus | isSafe | confirm | reportRecorded | setInhibit | rearm => exact .same _
  | init => rw [afterInit, unit_mk, chanAt_perChan]; exact .init
  | tick => rw [controlCycle_unit]; exact .tick _
  | start | unitStart => exact .onUnit (.uStart _)
  | stop => exact .onUnit (.uStop _)
  | setAmp => exact .onUnit (f := fun u => { u with amp := amp16 _ }) (.setAmp _ _)
  | resetOvl | clearFaults => exact .onUnit (.request _ _)
  | ampBcast => rw [unit_mk, chanAt_perChan]; exact .ampBcast _
  | coordStart => rw [unit_mk, chanAt_perChan]; exact .ite (.uStart _)
  | coordStop | unitStop => rw [stopChannels_eq, unit_mk, chanAt_perChan]; exact .ite (.uStop _)
  | reportIsolated => rw [isolate_eq, unit_mk, chanAt_perChan]; exact .uStop _
  | estop => rw [unit_mk, chanAt_perChan]; exact .estop
  | setSim => exact .onUnit (.setSim _ _)
  | injectFault => exact .onUnit (.injectFault _ _)
  | forceState => exact .onUnit (.forceState _ _)

/-- Everything a command can do to a unit, accepted or rejected. -/
theorem exec_unitEffect {i : Instr} {s t : State} (h : exec i s = .next t) (j : Chan) : UnitEffect s j i (t.unit j) :=
  exec_keeps (P := fun s t => UnitEffect s j i (t.unit j)) (fun _ _ => .same i) (fun _ _ ha _ => ha.unitEffect j) h

theorem cycleUnit_sim_amp (s : State) (j : Chan) :
    (cycleUnit s j).sim = (s.unit j).sim ∧ (cycleUnit s j).amp = (s.unit j).amp := by
  obtain ⟨v, d⟩ := exists_detected s j
  obtain ⟨-, hamp, hsim, -⟩ := d.kept
  exact ⟨hsim.trans d.sim, hamp.trans d.amp⟩

/-- The simulation flag is written by INIT and SET_SIM. -/
theorem UnitEffect.sim {s : State} {j : Chan} {i : Instr} {w : UnitState} (h : UnitEffect s j i w) (hinit : i ≠ .init)
    (hset : ∀ x d, i ≠ .setSim x d) : w.sim = (s.unit j).sim := by
  cases h with
  | init => exact absurd rfl hinit
  | setSim => exact absurd rfl (hset _ _)
  | tick => exact (cycleUnit_sim_amp s j).1
  | _ => rfl

/-- The setpoint is written by INIT, SET_AMP and AMP_BCAST. -/
theorem UnitEffect.amp {s : State} {j : Chan} {i : Instr} {w : UnitState} (h : UnitEffect s j i w) (hinit : i ≠ .init)
    (hset : ∀ x d, i ≠ .setAmp x d) (hbcast : ∀ d, i ≠ .ampBcast d) : w.amp = (s.unit j).amp := by
  cases h with
  | init => exact absurd rfl hinit
  | setAmp => exact absurd rfl (hset _ _)
  | ampBcast => exact absurd rfl (hbcast _)
  | tick => exact (cycleUnit_sim_amp s j).2
  | _ => rfl

/-- The counters and the debounce records are written by INIT and TICK. -/
theorem UnitEffect.counters {s : State} {j : Chan} {i : Instr} {w : UnitState} (h : UnitEffect s j i w)
    (hinit : i ≠ .init) (htick : i ≠ .tick) :
    w.startCount = (s.unit j).startCount ∧ w.faultCount = (s.unit j).faultCount ∧ w.deb = (s.unit j).deb := by
  cases h with
  | init => exact absurd rfl hinit
  | tick => exact absurd rfl htick
  | _ => exact ⟨rfl, rfl, rfl⟩

end Sys2Proof.Machine
end

section
/-!
The obligations of 10_state.md about the frames of the commands.
-/
namespace Sys2Proof.Machine

open Sys2Proof.Safety

/-- Settles O7: the port decides; a command answers (`exec_answers`) and keeps the ports, so the rest of the port is what
the transaction left to come. -/
theorem legalStepNeverStops : Obligations.LegalStepNeverStops := by
  intro s hlegal
  match hport : s.port with
  | [] => exact ⟨s, step_of_port_nil hport, rfl, hport⟩
  | .reset :: rest =>
    rw [step_of_port_cons hport, runTransaction_reset hlegal]
    exact ⟨_, rfl, rfl, rfl⟩
  | .cmd w now inp :: rest =>
    rw [step_of_port_cons hport, runTransaction_cmd hlegal]
    cases decode s.cfg.diagPresent w with
    | instr i =>
      obtain ⟨t, ht⟩ := exec_answers i (present s now inp rest)
      obtain ⟨hcfg, hrest, -⟩ := exec_samePorts ht
      exact ⟨t, ht, hcfg, hrest⟩
    | illegalOpcode | reservedField => exact ⟨_, rfl, rfl, rfl⟩

/-- Settles O53, field by field: what a command can do to the ports, to a unit, to the recency order and to the inhibit. -/
theorem fieldWriters : Obligations.FieldWriters := by
  intro i s t j h
  refine ⟨exec_samePorts h, fun hinit => ?_⟩
  have hu := exec_unitEffect h j
  refine ⟨hu.sim hinit, fun hset hbcast => ⟨hu.amp hinit hset hbcast, ?order⟩, fun hset => ?inhibit, hu.counters hinit⟩
  case order =>
    exact exec_keeps (P := fun s t => t.rc.order = s.rc.order) (fun _ _ => rfl)
      (fun _ _ ha _ => ha.order hinit hset hbcast) h
  case inhibit =>
    exact exec_keeps (P := fun s t => t.m.inhibit = s.m.inhibit) (fun _ _ => rfl)
      (fun _ _ ha _ => ha.inhibit hinit hset) h

end Sys2Proof.Machine
end

section
/-!
SUPPORT. A unit after a control cycle: what is left of its faults (40_unit_controller.md R76), and of its pending request
(10_state.md R24, 42_master_coordinator.md R89, R99).
-/
namespace Sys2Proof.Machine

open Sys2Proof.Safety

/-- A TICK that is accepted runs one control cycle. -/
theorem exec_tick_next {s t : State} (hi : s.sys.initialized = true) (h : exec .tick s = .next t) :
    t = { controlCycle s with result := some (resultWord (packedStates (controlCycle s)) .ok) } := by
  rcases ifInit_next h with ⟨-, h⟩ | ⟨hn, -⟩
  · exact (accept_eq_next ..).mp h
  · exact absurd hi (by simp [hn])

theorem exec_tick_unit {s t : State} (hi : s.sys.initialized = true) (h : exec .tick s = .next t) (j : Chan) :
    t.unit j = (controlCycle s).unit j := by
  simp only [exec_tick_next hi h, unit_mk, chanAt_u]

theorem exec_tick_m {s t : State} (hi : s.sys.initialized = true) (h : exec .tick s = .next t) :
    t.m = (controlCycle s).m := by
  rw [exec_tick_next hi h]

/-- A unit is settled: not UNKNOWN, and without a fault outside FAULT. -/
abbrev Settled (u : UnitState) : Prop := u.state ≠ .unknown ∧ (u.state ≠ .fault → u.faults = 0#5)

theorem settled_faultExit {u : UnitState} (hs : u.state = .fault) (cfg : Config) (now : Time) :
    Settled (faultExit cfg now u) := by
  have ho := faultExit_outcome cfg now u
  generalize faultExit cfg now u = w at ho
  cases ho with
  | pulseDone => exact ⟨nofun, fun _ => rfl⟩
  | cleared _ _ hf => exact ⟨nofun, fun _ => hf⟩
  | waiting | pulseFailed | requestFailed | pulseStarted | clearedButOvl =>
    exact ⟨by simp [hs], fun hne => absurd hs hne⟩

theorem settled_commit {u : UnitState} (hs : u.state ≠ .unknown) (hf : u.state = .fault ∨ u.faults = 0#5) (cfg : Config)
    (now : Time) : Settled (commit cfg now u) := by
  cases hst : u.state with
  | fault => simpa only [commit, hst] using settled_faultExit hst cfg now
  | unknown => exact absurd hst hs
  | idle | starting | running | stopping =>
    have hzero : u.faults = 0#5 := hf.resolve_left (by simp [hst])
    simp only [commit, hst, commitStop]
    (repeat' split) <;> simp_all [Settled]

/-- A unit's own update settles it. -/
theorem settled_cycleUnit (s : State) (i : Chan) : Settled (cycleUnit s i) := by
  obtain ⟨v, d⟩ := exists_detected s i
  rcases d.cases with ⟨e, -⟩ | ⟨e, hs, hf⟩ <;> rw [e]
  · exact ⟨nofun, fun hne => absurd rfl hne⟩
  · rw [← d.state] at hs hf
    exact settled_commit hs hf _ _

theorem settled_controlCycle (s : State) (i : Chan) : Settled ((controlCycle s).unit i) := by
  rw [controlCycle_unit]
  exact settled_cycleUnit s i

/-- Every command but FORCE_STATE keeps a unit outside FAULT and UNKNOWN without a fault. -/
theorem UnitEffect.no_fault {s : State} {j : Chan} {i : Instr} {w : UnitState} (h : UnitEffect s j i w)
    (hforce : ∀ x d, i ≠ .forceState x d)
    (hs : (s.unit j).state ≠ .fault → (s.unit j).state ≠ .unknown → (s.unit j).faults = 0#5) :
    w.state ≠ .fault → w.state ≠ .unknown → w.faults = 0#5 := by
  cases h with
  | init => exact fun _ _ => rfl
  | tick => exact fun hw _ => (settled_cycleUnit s j).2 hw
  | estop =>
    intro hw _
    have hns : ¬ ((s.unit j).state = .fault ∨ (s.unit j).state = .unknown) := fun hst => hw (if_pos hst)
    exact hs (fun e => hns (.inl e)) fun e => hns (.inr e)
  | forceState => exact absurd rfl (hforce _ _)
  | _ => exact hs

/-- The unit update commits or discards the pending request of the unit. -/
abbrev RequestConsumed (u : UnitState) : Prop :=
  (u.state = .idle ∧ u.pending = .start) ∨ ((u.state = .starting ∨ u.state = .running) ∧ u.pending = .stop) ∨
    (u.state = .fault ∧ u.pulse = false ∧ (u.pending = .reset ∨ u.pending = .clear))

/-- The unit update takes `u` into FAULT; `faults` is the mask after it. -/
abbrev FaultEntered (u : UnitState) (faults : FaultMask) : Prop :=
  u.state ≠ .fault ∧ (faults ≠ 0#5 ∨ u.state = .unknown)

/-- The fault exit consumes a reset or a clear, outside a pulse. -/
theorem faultExit_pending {u : UnitState} (hs : u.state = .fault) (cfg : Config) (now : Time) :
    (RequestConsumed u → (faultExit cfg now u).pending = .none) ∧
      (¬ RequestConsumed u → (faultExit cfg now u).pending = u.pending) := by
  have hiff : RequestConsumed u ↔ u.pulse = false ∧ (u.pending = .reset ∨ u.pending = .clear) := by
    simp [RequestConsumed, hs]
  rw [hiff]
  have ho := faultExit_outcome cfg now u
  generalize faultExit cfg now u = w at ho
  cases ho with
  | waiting h => exact ⟨fun ⟨hq, hp⟩ => by rcases h with h | h <;> simp_all, fun _ => rfl⟩
  | pulseFailed h | pulseDone h => exact ⟨fun hc => by simp [h] at hc, fun _ => rfl⟩
  | requestFailed h hp => exact ⟨fun _ => rfl, fun hn => absurd ⟨h, hp⟩ hn⟩
  | pulseStarted h hp => exact ⟨fun _ => rfl, fun hn => absurd ⟨h, .inl hp⟩ hn⟩
  | clearedButOvl h hp | cleared h hp => exact ⟨fun _ => rfl, fun hn => absurd ⟨h, .inr hp⟩ hn⟩

/-- The transition consumes what `RequestConsumed` says, and keeps any other request. -/
theorem commit_pending (cfg : Config) (now : Time) (u : UnitState) :
    (RequestConsumed u → (commit cfg now u).pending = .none) ∧
      (¬ RequestConsumed u → (commit cfg now u).pending = u.pending) := by
  cases hs : u.state with
  | fault => simpa only [commit, hs] using faultExit_pending hs cfg now
  | idle | starting | running | stopping | unknown =>
    simp only [commit, hs, RequestConsumed, commitStop]
    (repeat' split) <;> simp_all

/-- What a unit's own update makes of its pending request. -/
theorem cycleUnit_pending (s : State) (i : Chan) :
    let gone := FaultEntered (s.unit i) (cycleUnit s i).faults ∨ RequestConsumed (s.unit i)
    (gone → (cycleUnit s i).pending = .none) ∧ (¬ gone → (cycleUnit s i).pending = (s.unit i).pending) := by
  intro gone
  obtain ⟨v, d⟩ := exists_detected s i
  obtain ⟨-, -, -, -, -, -, -, -, -, -, hfaults⟩ := d.kept
  rcases d.cases with ⟨e, hcause⟩ | ⟨e, hknown, hcalm⟩
  · have hentered : FaultEntered (s.unit i) (cycleUnit s i).faults := by
      rw [e]
      rcases hcause with hu | ⟨hf, hs⟩
      · exact ⟨by simp [hu], .inr hu⟩
      · exact ⟨hs, .inl hf⟩
    exact ⟨fun _ => by rw [e]; rfl, fun h => absurd (.inl hentered) h⟩
  · have hentered : ¬ FaultEntered (s.unit i) (cycleUnit s i).faults := by
      rintro ⟨hs, hf | hu⟩
      · rw [hfaults hs] at hf
        exact hf (hcalm.resolve_left hs)
      · exact hknown hu
    have hgone : gone ↔ RequestConsumed v := by
      simp only [gone, hentered, false_or, RequestConsumed, d.state, d.pending, d.pulse]
    rw [hgone, e, ← d.pending]
    exact commit_pending ..

/-- The MC isolates in this master update: for a new fault, or because the sequence is late. -/
abbrev MasterIsolates (s : State) : Prop :=
  s.m.state ≠ .emergencyStop ∧
    ((∃ j, NewlyFaulted s.m j (s.unit j)) ∨ (s.m.state ≠ .faultIsolation ∧ (masterUpdate s).m.state = .faultIsolation))

/-- Any number of stops is one stop or none. -/
theorem Stopped.eq_or {u w : UnitState} (h : Stopped u w) : w = u ∨ w = uStop u := by
  induction h with
  | none => exact .inl rfl
  | stop _ ih =>
    rcases ih with rfl | rfl
    · exact .inr rfl
    · exact .inr (uStop_uStop u)

theorem polledAll_unit {s : State} (hn : ∃ j, NewlyFaulted s.m j (s.unit j)) (i : Chan) :
    (chans.foldl pollFault s).unit i = uStop (s.unit i) := by
  obtain ⟨j, hj⟩ := hn
  obtain ⟨-, -, -, -, -, hfixed⟩ := (polled_all s).isolates ⟨j, mem_polled j, hj⟩
  rcases (Stopped.polled chans s (fun _ => .none) i).eq_or with e | e
  · have hi := hfixed i
    rw [e] at hi ⊢
    exact hi.symm
  · exact e

/-- The master update stops every unit if it isolates, and writes no unit otherwise. -/
theorem masterUpdate_unit (s : State) (i : Chan) :
    (MasterIsolates s → (masterUpdate s).unit i = uStop (s.unit i)) ∧
      (¬ MasterIsolates s → (masterUpdate s).unit i = s.unit i) := by
  unfold MasterIsolates
  have ho := masterUpdate_outcome s
  generalize masterUpdate s = t at ho
  cases ho with
  | stopped he => exact ⟨fun h => absurd he h.1, fun _ => rfl⟩
  | polled he hn => exact ⟨fun _ => polledAll_unit hn i, fun h => absurd ⟨he, .inl hn⟩ h⟩
  | isolated hf hn =>
    refine ⟨fun ⟨_, h⟩ => ?_, fun _ => rfl⟩
    rcases h with ⟨j, hj⟩ | ⟨h, -⟩
    · exact absurd hj (hn j)
    · exact absurd hf h
  | done he hf hn =>
    refine ⟨fun ⟨_, h⟩ => ?_, fun _ => rfl⟩
    rcases h with ⟨j, hj⟩ | ⟨-, h⟩
    · exact absurd hj (hn j)
    · cases h
  | late he hf =>
    rw [isolate_eq]
    exact ⟨fun _ => by rw [unit_mk, chanAt_perChan]; rfl, fun h => absurd ⟨he, .inr ⟨hf, rfl⟩⟩ h⟩
  | going he hf hn =>
    refine ⟨fun ⟨_, h⟩ => ?_, fun _ => rfl⟩
    rcases h with ⟨j, hj⟩ | ⟨-, h⟩
    · exact absurd hj (hn j)
    · rcases completeStart_state (pollProgress s) with e | ⟨-, e⟩
      · exact absurd (e.symm.trans h) hf
      · rw [e] at h; cases h

/-- Units that agree, with the same samples, parameters, time and communication condition, are updated alike. -/
theorem cycleUnit_congr {s1 s2 : State} {i : Chan} (hu : s1.unit i = s2.unit i) (hsys : s1.sys = s2.sys)
    (hcfg : s1.cfg = s2.cfg) (hnow : s1.now = s2.now) (hcomm : s1.inp.commSeen = s2.inp.commSeen)
    (hphys : chanAt s1.inp.phys i = chanAt s2.inp.phys i) (hsim : chanAt s1.inp.sim i = chanAt s2.inp.sim i) :
    cycleUnit s1 i = cycleUnit s2 i := by
  simp only [cycleUnit, cycleCommLost, commCondition, hu, hsys, hcfg, hnow, hcomm, hphys, hsim]

end Sys2Proof.Machine
end

section
/-!
The obligations of 10_state.md about the units in a TICK.
-/
namespace Sys2Proof.Machine

open Sys2Proof.Safety

/-- Settles O12: what a command can do to a unit keeps the property (`UnitEffect.no_fault`), and the unit update of a TICK
establishes it. -/
theorem unitsOutsideFaultHoldNoFault : Obligations.UnitsOutsideFaultHoldNoFault := by
  refine ⟨fun i s t hforce h hs j => (exec_unitEffect h j).no_fault hforce (hs j), fun s t hi h j => ?_⟩
  rw [exec_tick_unit hi h]
  exact settled_controlCycle s j

/-- Settles O51: before INIT both TICKs are rejected; after it each leaves the unit's own update but for the request. -/
theorem tickUnitsDoNotInterfere : Obligations.TickUnitsDoNotInterfere := by
  intro s1 s2 t1 t2 i h1 h2 hu hsys hcfg hnow hcomm hphys hsim
  rcases ifInit_next h1 with ⟨hi1, -⟩ | ⟨hi1, rfl⟩ <;> rcases ifInit_next h2 with ⟨hi2, -⟩ | ⟨hi2, rfl⟩
  · rw [exec_tick_unit hi1 h1, exec_tick_unit hi2 h2]
    have e1 := controlCycle_unit s1 i
    have e2 := controlCycle_unit s2 i
    rw [← cycleUnit_congr hu hsys hcfg hnow hcomm hphys hsim] at e2
    show { (controlCycle s2).unit i with pending := ((controlCycle s1).unit i).pending } = (controlCycle s1).unit i
    rw [e2, e1]
  · simp [hsys, hi2] at hi1
  · simp [hsys, hi2] at hi1
  · show { s2.unit i with pending := (s1.unit i).pending } = s1.unit i
    rw [hu]

/-- Settles O60: the unit's own update leaves `own` (`cycleUnit_pending`), and the master update then stops the unit or
leaves it (`masterUpdate_unit`). -/
theorem tickConsumesCommittedRequests : Obligations.TickConsumesCommittedRequests := by
  intro s t i hi h u v entered consumed isolates
  have hcycle : ∀ j, t.unit j = (masterUpdate (beforeMaster s)).unit j := exec_tick_unit hi h
  have hown : ∀ j, { t.unit j with pending := (cycleUnit s j).pending } = cycleUnit s j := fun j => by
    have e := controlCycle_unit s j
    rw [controlCycle_eq, ← hcycle] at e
    rw [e]
  have hstate : ∀ j, (t.unit j).state = (cycleUnit s j).state := fun j => by rw [← hown j]
  have hfaults : v.faults = (cycleUnit s i).faults := by rw [← hown i]
  have hisolates : isolates ↔ MasterIsolates (beforeMaster s) := by
    have hm : t.m = (masterUpdate (beforeMaster s)).m := exec_tick_m hi h
    simp only [isolates, MasterIsolates, NewlyFaulted, beforeMaster_m, beforeMaster_unit, hstate, hm]
  obtain ⟨hgone, hkept⟩ := cycleUnit_pending s i
  obtain ⟨hstop, hleft⟩ := masterUpdate_unit (beforeMaster s) i
  rw [← hcycle, beforeMaster_unit, ← hisolates] at hstop hleft
  rw [← hfaults] at hgone hkept
  refine ⟨(cycleUnit s i).pending, hgone, hkept, fun hn => ?quiet, fun his hcan => ?unstoppable, fun his hcan => ?stopped⟩
  case quiet => exact congrArg UnitState.pending (hleft hn)
  case unstoppable =>
    rw [hown, ← uStopOk_iff] at hcan
    show (t.unit i).pending = _
    rw [hstop his, uStop, if_neg hcan]
  case stopped =>
    rw [hown, ← uStopOk_iff] at hcan
    show (t.unit i).pending = if (t.unit i).state = .idle then _ else _
    rw [hstop his, uStop_state, uStop, if_pos hcan]

end Sys2Proof.Machine
end

section
/-!
SUPPORT. The words of the block as numbers (10_state.md R22, R27, R35, R36): the fields of an assembled word, and the codes.
-/
namespace Sys2Proof.Machine

open Sys2Proof.Safety

/-- An assembled word as a number: the low part, and the high part above it. -/
theorem toNat_append_eq {n m : Nat} (x : BitVec n) (y : BitVec m) : (x ++ y).toNat = 2 ^ m * x.toNat + y.toNat := by
  rw [BitVec.toNat_append, ← Nat.shiftLeft_add_eq_or_of_lt y.isLt, Nat.shiftLeft_eq, Nat.mul_comm]

@[simp] theorem UState.code_toNat (x : UState) : x.code.toNat = unitStateNumber x := by
  cases x <;> rfl

@[simp] theorem MState.code_toNat (x : MState) : x.code.toNat = masterStateNumber x := by
  cases x <;> rfl

/-- A channel set as a number. -/
theorem chanSet_toNat (p : Chan → Bool) :
    (chanSet p).toNat = (p 0).toNat + 2 * (p 1).toNat + 4 * (p 2).toNat + 8 * (p 3).toNat := by
  simp only [chanSet, toNat_append_eq, BitVec.toNat_ofBool]
  omega

/-- The size of a channel set. -/
theorem chanCount_chanSet (p : Chan → Bool) :
    chanCount (chanSet p) = (p 0).toNat + (p 1).toNat + (p 2).toNat + (p 3).toNat := by
  have h : hasChan (chanSet p) = p := funext (hasChan_chanSet p)
  rw [chanCount, h]
  simp only [chans, List.filter_cons, List.filter_nil]
  generalize p 0 = a, p 1 = b, p 2 = c, p 3 = d
  revert a b c d
  decide

/-- The packed states of a TICK as a number. -/
theorem packedStates_toNat (s : State) : (packedStates s).toNat =
    unitStateNumber (s.unit 0).state + 8 * unitStateNumber (s.unit 1).state + 64 * unitStateNumber (s.unit 2).state +
      512 * unitStateNumber (s.unit 3).state + 4096 * masterStateNumber s.m.state := by
  simp only [packedStates, toNat_append_eq, UState.code_toNat, MState.code_toNat, BitVec.toNat_zero]
  omega

/-- Bits 2:0 of the status word are the code of the state. -/
theorem statusWord_code (u : UnitState) : (statusWord u).extractLsb' 0 3 = u.state.code := by
  ext n hn
  simp only [BitVec.getElem_extractLsb', statusWord, BitVec.getLsbD_append]
  grind

/-- Bits 7:3 of the status word are the latched faults. -/
theorem statusWord_faults (u : UnitState) : (statusWord u).extractLsb' 3 5 = u.faults := by
  ext n hn
  simp only [BitVec.getElem_extractLsb', statusWord, BitVec.getLsbD_append]
  grind

/-- The bit of each fault class in the status word. -/
theorem statusWord_class (u : UnitState) (k : FaultClass) :
    hasClass u.faults k = (statusWord u).getLsbD (3 + classPosition k) := by
  rw [← statusWord_faults, hasClass]
  cases k <;> simp [FaultClass.index, classPosition]

/-- The result word of a success. -/
theorem resultWord_ok (v : BitVec 16) : resultWord v .ok = v ++ 0#16 := by
  apply BitVec.eq_of_toNat_eq
  simp only [resultWord, ResultCode.code, toNat_append_eq, BitVec.ofNat_eq_ofNat, BitVec.toNat_zero]
  omega

theorem accept_eq_returning (s : State) (v : BitVec 16) : s.accept v = .next (returning v s) := by
  rw [accept_eq, resultWord_ok]
  rfl

end Sys2Proof.Machine
end

section
/-!
SUPPORT. The register map (10_state.md R35): which address is read where, and which is unmapped.
-/
namespace Sys2Proof.Machine

open Sys2Proof.Safety

/-- An offset in the block of channel i. -/
theorem blockOf_channel (i : Chan) {off : Nat} (h : off < 16) :
    blockOf (BitVec.ofNat 16 (0x20 + 0x10 * i.val + off)).toNat = some (i, off) := by
  have hi := i.isLt
  have ha : (BitVec.ofNat 16 (0x20 + 0x10 * i.val + off)).toNat = 0x20 + 0x10 * i.val + off := by
    rw [BitVec.toNat_ofNat]
    omega
  rw [ha, blockOf, dif_pos (by omega)]
  simp only [Option.some.injEq, Prod.mk.injEq, Fin.ext_iff]
  omega

theorem regRead_channel (s : State) (i : Chan) {off : Nat} (h : off < 16) :
    regRead s (BitVec.ofNat 16 (0x20 + 0x10 * i.val + off)) = channelReg (s.unit i) off := by
  rw [regRead, blockOf_channel i h]

/-- An address below the channel blocks. -/
theorem regRead_system (s : State) {a : Nat} (h : a < 0x20) : regRead s (BitVec.ofNat 16 a) = systemReg s a := by
  have ha : (BitVec.ofNat 16 a).toNat = a := by
    rw [BitVec.toNat_ofNat]
    omega
  rw [regRead, blockOf, ha, dif_neg (by omega)]

theorem channelReg_eq_none_iff (u : UnitState) (off : Nat) : channelReg u off = none ↔ 0xA ≤ off := by
  unfold channelReg
  split
  case h_11 =>
    simp only [imp_false, true_iff] at *
    omega
  all_goals simp

theorem systemReg_eq_none_iff (s : State) (a : Nat) :
    systemReg s a = none ↔ (0x07 ≤ a ∧ a ≤ 0x0F) ∨ 0x12 ≤ a := by
  unfold systemReg
  split
  case h_10 =>
    simp only [imp_false, true_iff] at *
    omega
  all_goals simp

/-- Exactly the addresses R35 names as unmapped read none. -/
theorem regRead_eq_none_iff (s : State) (a : BitVec 16) : regRead s a = none ↔ Unmapped a := by
  unfold regRead blockOf
  split
  · next i off hblock =>
    split at hblock
    · simp only [Option.some.injEq, Prod.mk.injEq] at hblock
      rw [channelReg_eq_none_iff, Unmapped]
      omega
    · cases hblock
  · next hblock =>
    split at hblock
    · cases hblock
    · rw [systemReg_eq_none_iff, Unmapped]
      omega

end Sys2Proof.Machine
end

section
/-!
SUPPORT. The checks of a command (30_encoding.md R59), passed or failed.
-/
namespace Sys2Proof.Machine

open Sys2Proof.Safety

section
variable {s : State} {k : Answer}

theorem ifDiag_pass (h : s.cfg.diagPresent = true) : ifDiag s k = k := if_pos h

theorem ifInit_pass (h : s.sys.initialized = true) : ifInit s k = k := if_pos h

theorem onChannel_idxOf (i : Chan) (k : Chan → Answer) : onChannel s (idxOf i) k = k i := by
  rw [onChannel, chanOf_idxOf]

theorem ifValue_pass {b : Bool} (h : b = true) : ifValue s b k = k := if_pos h

theorem ifValue_fail {b : Bool} (h : b = false) : ifValue s b k = s.reject .badValue :=
  if_neg (by simp [h])

theorem ifStartAllowed_pass (h : StartsAllowed s.m) : ifStartAllowed s k = k := by
  rw [ifStartAllowed, (startGate_none_iff _).mpr h]

end

theorem fmask5Valid_eq_false {d : BitVec 16} (h : 32 ≤ d.toNat ∨ d.toNat % 32 = 0) : fmask5Valid d = false := by
  simp only [fmask5Valid, Bool.and_eq_false_iff, decide_eq_false_iff_not, not_not, BitVec.toNat_eq,
    BitVec.extractLsb'_toNat, BitVec.toNat_ofNat, Nat.shiftRight_eq_div_pow]
  omega

theorem bool1Valid_eq_false {d : BitVec 16} (h : 1 < d.toNat) : bool1Valid d = false := by
  simp only [bool1Valid, Bool.or_eq_false_iff, decide_eq_false_iff_not, BitVec.toNat_eq, BitVec.toNat_ofNat]
  omega

/-- The forced unit, its output and running flags written as R104 writes them. -/
theorem forceUnit_eq (now : Time) (x : UState) (u : UnitState) :
    forceUnit now x u =
      { u with
        state := x
        pending := .none
        pulse := false
        resetOut := false
        startOut := decide (x = .starting ∨ x = .running)
        running := decide (x = .running ∨ x = .stopping)
        tState := now } := by
  simp only [forceUnit, Bool.decide_or]

/-- A number above 7 is no state3 operand. -/
theorem state3Valid_eq_false {d : BitVec 16} (h : 7 < d.toNat) : state3Valid d = false := by
  simpa [state3Valid] using h

theorem unitStateNumber_injective : Function.Injective unitStateNumber := by
  intro x y h
  cases x <;> cases y <;> simp_all [unitStateNumber]

/-- Operands 0 to 4 name their state, any other UNKNOWN. -/
theorem unitStateNumber_ofOperand (d : BitVec 16) : unitStateNumber (UState.ofOperand d) = min d.toNat 5 := by
  unfold UState.ofOperand
  split
  case h_6 =>
    simp only [imp_false] at *
    simp only [unitStateNumber]
    omega
  all_goals next h => rw [h]; rfl

end Sys2Proof.Machine
end

section
/-!
SUPPORT. The commands addressed to one channel (41_resource_coordinator.md R78).
-/
namespace Sys2Proof.Machine

open Sys2Proof.Safety

/-- The index field of the commands that write at most the unit it names: every command with an index but REPORT_FAULT. -/
def oneChannelIndex : Instr → Option (BitVec 4)
  | .start x | .stop x | .setAmp x _ | .resetOvl x | .clearFaults x | .getStatus x | .isSafe x | .confirm x | .unitStart x
  | .unitStop x | .setSim x _ | .injectFault x _ | .forceState x _ => some x
  | .nop | .init | .tick | .readReg _ | .ampBcast _ | .coordStart _ | .coordStop _ | .reportFault _ _ | .estop
  | .setInhibit _ | .rearm => none

/-- A command accepted on channel ch leaves every other unit. -/
theorem Accepted.unit_other {i : Instr} {s x : State} {v : BitVec 16} (ha : Accepted i s v x) {ch j : Chan}
    (hidx : oneChannelIndex i = some (idxOf ch)) (hj : j ≠ ch) : x.unit j = s.unit j := by
  have hne : ∀ {idx : BitVec 4} {k : Chan}, some idx = some (idxOf ch) → chanOf idx = some k → k ≠ j := by
    rintro idx k ⟨⟩ hk rfl
    rw [chanOf_idxOf] at hk
    exact hj (Option.some.inj hk).symm
  cases ha with
  | nop | init | tick | readReg | ampBcast | coordStart | coordStop | reportRecorded | reportIsolated | estop | setInhibit
  | rearm => cases hidx
  | getStatus | isSafe | confirm => rfl
  | start _ _ _ _ hc | stop _ _ _ _ hc | resetOvl _ _ _ _ hc | clearFaults _ _ _ _ hc
  | unitStart _ _ _ _ hc | setSim _ _ _ _ _ _ hc | injectFault _ _ _ _ _ _ hc | forceState _ _ _ _ _ _ hc =>
    exact State.onUnit_other s _ (hne hidx hc)
  | setAmp _ _ dat _ _ hc => exact State.onUnit_other s (fun u => { u with amp := amp16 dat }) (hne hidx hc)
  | unitStop _ _ _ _ hc =>
    rw [stopChannels_eq, unit_mk, chanAt_perChan, hasChan_chanBit, if_neg (by simpa using hne hidx hc)]

end Sys2Proof.Machine
end

section
/-!
The obligations of 10_state.md about single commands and the words of the block.
-/
namespace Sys2Proof.Machine

open Sys2Proof.Safety

/-- Settles O50: each of the thirteen commands has its index in `oneChannelIndex`, and writes at most the unit it names. -/
theorem oneChannelCommandsLeaveOthers : Obligations.OneChannelCommandsLeaveOthers := by
  intro ch j d i s t hj hi h
  have hidx : oneChannelIndex i = some (idxOf ch) := by
    simp only [List.mem_cons, List.not_mem_nil, or_false] at hi
    rcases hi with rfl | rfl | rfl | rfl | rfl | rfl | rfl | rfl | rfl | rfl | rfl | rfl | rfl <;> rfl
  exact exec_keeps (P := fun s t => t.unit j = s.unit j) (fun _ _ => rfl) (fun _ _ ha _ => ha.unit_other hidx hj) h

/-- Settles O18: past the checks before it the operand's check fails; an unmapped address reads none. -/
theorem badValueRejected : Obligations.BadValueRejected := by
  refine ⟨fun i ch d s hinit hi => ?command, fun s a ha => ?register⟩
  case command =>
    rcases hi with rfl | rfl | ⟨rfl, hd⟩ | ⟨rfl, hd⟩ | ⟨hdiag, ⟨rfl, hd⟩ | ⟨rfl, hd⟩ | ⟨rfl, hd⟩⟩
    · exact (ifInit_pass hinit).trans (ifValue_fail rfl)
    · exact (ifInit_pass hinit).trans (ifValue_fail rfl)
    · exact (ifInit_pass hinit).trans ((onChannel_idxOf ch _).trans (ifValue_fail (fmask5Valid_eq_false hd)))
    · exact (ifInit_pass hinit).trans (ifValue_fail (bool1Valid_eq_false hd))
    · exact (ifDiag_pass hdiag).trans ((ifInit_pass hinit).trans ((onChannel_idxOf ch _).trans
        (ifValue_fail (fmask5Valid_eq_false hd))))
    · exact (ifDiag_pass hdiag).trans ((ifInit_pass hinit).trans ((onChannel_idxOf ch _).trans
        (ifValue_fail (bool1Valid_eq_false hd))))
    · exact (ifDiag_pass hdiag).trans ((ifInit_pass hinit).trans ((onChannel_idxOf ch _).trans
        (ifValue_fail (state3Valid_eq_false hd))))
  case register =>
    show execReadReg a s = _
    rw [execReadReg, (regRead_eq_none_iff s a).mpr ha]
    rfl

/-- Settles O36: every check passes, and the operand names the state (`unitStateNumber_ofOperand`). -/
theorem forceStateSetsUnit : Obligations.ForceStateSetsUnit := by
  intro s i d x hinit hdiag hd hx hgate
  have hop : UState.ofOperand d = x := unitStateNumber_injective (by rw [unitStateNumber_ofOperand, hx])
  have hvalid : state3Valid d = true := decide_eq_true hd
  have hopen : forcedRunning x = true → StartsAllowed s.m := by
    simpa [forcedRunning, or_assoc] using hgate
  show execForceState (idxOf i) d s = _
  rw [execForceState, ifDiag_pass hdiag, ifInit_pass hinit, onChannel_idxOf, ifValue_pass hvalid, hop]
  dsimp only
  rw [accept_eq_returning, State.onUnit, forceUnit_eq]
  split
  · next hf => exact ifStartAllowed_pass (hopen hf)
  · rfl

/-- Settles O37: TICK runs one control cycle, which keeps the ports, and answers its packed states. -/
theorem tickReturnsPackedStates : Obligations.TickReturnsPackedStates := by
  intro s hinit
  have htick : exec .tick s = (controlCycle s).accept (packedStates (controlCycle s)) := ifInit_pass hinit
  rw [accept_eq_returning] at htick
  exact ⟨_, _, htick, exec_samePorts htick, rfl, packedStates_toNat _⟩

/-- Settles O23: INIT is accepted in every state, with the after-INIT values of R37. -/
theorem initGivesAfterInitValues : Obligations.InitGivesAfterInitValues := by
  intro s
  refine ⟨_, rfl, rfl, ⟨rfl, rfl, rfl, rfl⟩, rfl, fun i => ?_, rfl, rfl⟩
  rw [unit_mk]
  exact chanAt_perChan _ i

/-- Settles O57: the fields of the status word, bit by bit, and the two places where it is read. -/
theorem statusWordLayout : Obligations.StatusWordLayout := by
  intro s i u
  refine ⟨by rw [statusWord_code, UState.code_toNat], statusWord_faults u, statusWord_class u, ?_, ?_, ?_, ?_, ?_, ?_, ?_,
    ?_, ?getStatus, ?register⟩
  case getStatus => exact (onChannel_idxOf i _).trans (accept_eq_returning ..)
  case register =>
    have h := regRead_channel s i (off := 9) (by decide)
    rw [Nat.add_right_comm] at h
    exact h
  all_goals
    simp only [statusWord, BitVec.getLsbD_append]
    simp [busy]

end Sys2Proof.Machine
end

section
/-!
SUPPORT. The words of the register map as numbers (10_state.md R35).
-/
namespace Sys2Proof.Machine

open Sys2Proof.Safety

/-- A flag as a number, as the statement of the register map writes it. -/
theorem toNat_eq_ite (b : Bool) : b.toNat = if b then 1 else 0 := by
  cases b <;> rfl

theorem masterMasksWord_toNat (m : McState) : (masterMasksWord m).toNat =
    m.active.toNat + 16 * m.confirmed.toNat + 256 * m.faulted.toNat + 4096 * m.stopWait.toNat := by
  simp only [masterMasksWord, toNat_append_eq]
  omega

theorem lastFaultWord_toNat (f : LastFault) : (lastFaultWord f).toNat =
    f.ch.toNat + 16 * f.mask.toNat + 16384 * f.timeout.toNat + 32768 * f.valid.toNat := by
  simp only [lastFaultWord, toNat_append_eq, BitVec.toNat_ofBool, BitVec.toNat_zero]
  omega

theorem sysFlagsWord_toNat (s : State) : (sysFlagsWord s).toNat =
    s.sys.initialized.toNat + 2 * s.sys.commLost.toNat + 4 * (decide (s.m.state = .coordinatedStart)).toNat +
      8 * (decide (s.m.stopWait ≠ 0#4)).toNat := by
  simp only [sysFlagsWord, toNat_append_eq, BitVec.toNat_ofBool, BitVec.toNat_zero]
  omega

theorem chCmdWord_toNat (u : UnitState) : (chCmdWord u).toNat =
    (decide (u.pending = .start)).toNat + 2 * (decide (u.pending = .stop)).toNat +
      4 * (decide (u.pending = .reset) || u.pulse).toNat + 8 * (decide (u.pending = .clear)).toNat := by
  simp only [chCmdWord, toNat_append_eq, BitVec.toNat_ofBool, BitVec.toNat_zero]
  omega

theorem chFlagsWord_toNat (u : UnitState) : (chFlagsWord u).toNat =
    u.running.toNat + 2 * u.locked.toNat + 4 * u.commOk.toNat + 8 * u.sim.toNat + 16 * u.startOut.toNat +
      32 * u.resetOut.toNat + 64 * (safe u).toNat + 128 * u.pulse.toNat + 256 * u.id.toNat := by
  simp only [chFlagsWord, toNat_append_eq, BitVec.toNat_ofBool, BitVec.toNat_zero]
  omega

/-- CHi_FREQ saturates (93 I16). -/
theorem chFreqWord_toNat (u : UnitState) : (chFreqWord u).toNat = min u.freqHz.toNat 65535 := by
  rw [chFreqWord, BitVec.toNat_ofNat]
  omega

/-- The value of a register wider than its field. -/
theorem setWidth16_toNat {n : Nat} (h : n ≤ 16) (x : BitVec n) : (x.setWidth 16).toNat = x.toNat :=
  BitVec.toNat_setWidth_of_le h

theorem runCount_toNat (s : State) : (BitVec.ofNat 16 (chanCount (runMask s))).toNat =
    (s.unit 0).running.toNat + (s.unit 1).running.toNat + (s.unit 2).running.toNat + (s.unit 3).running.toNat := by
  have hle : ∀ b : Bool, b.toNat ≤ 1 := Bool.toNat_le
  have h0 := hle (s.unit 0).running
  have h1 := hle (s.unit 1).running
  have h2 := hle (s.unit 2).running
  have h3 := hle (s.unit 3).running
  rw [BitVec.toNat_ofNat, runMask, chanCount_chanSet]
  omega

end Sys2Proof.Machine
end

section
/-!
The obligation of 10_state.md about the register map.
-/
namespace Sys2Proof.Machine

open Sys2Proof.Safety

/-- Settles O58: each address selects its register, and each register's word is the number the map gives. -/
theorem registerMap : Obligations.RegisterMap := by
  intro s rd b run
  have hb : ∀ x : Bool, b x = x.toNat := fun x => (toNat_eq_ite x).symm
  have hsystem : ∀ {a : Nat} {w : BitVec 16} {n : Nat}, a < 0x20 → systemReg s a = some w → w.toNat = n →
      rd a = some n := by
    rintro a w n ha hw rfl
    simp only [rd, regRead_system s ha, hw, Option.map_some]
  refine ⟨?count, ?mask, ?state, ?masks, ?duty, ?last, ?flags, ?inhibit, ?bcast, fun i => ?channel, regRead_eq_none_iff s⟩
  case count => exact hsystem (by decide) rfl (by simp only [run, hb, runCount_toNat])
  case mask =>
    refine hsystem (by decide) rfl ?_
    rw [setWidth16_toNat (by decide), runMask, chanSet_toNat]
    simp only [run, hb]
  case state => exact hsystem (by decide) rfl (by rw [setWidth16_toNat (by decide), MState.code_toNat])
  case masks => exact hsystem (by decide) rfl (masterMasksWord_toNat s.m)
  case duty => exact hsystem (by decide) rfl rfl
  case last => exact hsystem (by decide) rfl (by simp only [hb, lastFaultWord_toNat])
  case flags => exact hsystem (by decide) rfl (by simp only [hb, sysFlagsWord_toNat])
  case inhibit => exact hsystem (by decide) rfl (by rw [hb, setWidth16_toNat (by decide), BitVec.toNat_ofBool])
  case bcast => exact hsystem (by decide) rfl (setWidth16_toNat (by decide) _)
  case channel =>
    intro u ch
    have hreg : ∀ {off : Nat} {w : BitVec 16} {n : Nat}, off < 16 → channelReg u off = some w → w.toNat = n →
        ch off = some n := by
      rintro off w n hoff hw rfl
      simp only [ch, rd, regRead_channel s i hoff, u, hw, Option.map_some]
    refine ⟨?command, ?amp, ?power, ?freq, ?faults, ?flags, ?state, ?starts, ?faultCount, ?status⟩
    case command => exact hreg (by decide) rfl (by simp only [hb, chCmdWord_toNat])
    case amp => exact hreg (by decide) rfl (setWidth16_toNat (by decide) _)
    case freq => exact hreg (by decide) rfl (chFreqWord_toNat u)
    case faults => exact hreg (by decide) rfl (setWidth16_toNat (by decide) _)
    case flags => exact hreg (by decide) rfl (by simp only [hb, chFlagsWord_toNat])
    case state => exact hreg (by decide) rfl (by rw [setWidth16_toNat (by decide), UState.code_toNat])
    case power | starts | faultCount | status => exact hreg (by decide) rfl rfl

end Sys2Proof.Machine
end

section
/-!
SUPPORT. The converse of `exec_next`: under its guards a command answers its effect (30_encoding.md R59).
-/
namespace Sys2Proof.Machine

section
variable {s : State}

theorem onChannel_pass {idx : BitVec 4} {i : Chan} (h : chanOf idx = some i) (k : Chan → Answer) :
    onChannel s idx k = k i := by
  rw [onChannel, h]

theorem ifState_pass {b : Bool} {k : Answer} (h : b = true) : ifState s b k = k := if_pos h

theorem ifStartAllowed_of_gate {k : Answer} (h : startGate s.m = none) : ifStartAllowed s k = k := by
  rw [ifStartAllowed, h]

/-- A command past the checks for initialisation and for its channel. -/
theorem ifInit_onChannel {idx : BitVec 4} {i : Chan} (hi : s.sys.initialized = true) (hc : chanOf idx = some i)
    (k : Chan → Answer) : ifInit s (onChannel s idx k) = k i :=
  (ifInit_pass hi).trans (onChannel_pass hc k)

/-- A diagnostic command past the checks before its operand's. -/
theorem ifDiag_onChannel {idx : BitVec 4} {i : Chan} (hd : s.cfg.diagPresent = true) (hi : s.sys.initialized = true)
    (hc : chanOf idx = some i) (k : Chan → Answer) : ifDiag s (ifInit s (onChannel s idx k)) = k i :=
  (ifDiag_pass hd).trans (ifInit_onChannel hi hc k)

end

/-- A command that is accepted in a state answers its effect there. -/
theorem Accepted.exec_eq {i : Instr} {s x : State} {v : BitVec 16} (ha : Accepted i s v x) : exec i s = x.accept v := by
  cases ha with
  | nop | init => rfl
  | tick _ hi => exact ifInit_pass hi
  | readReg _ dat _ hr =>
    show execReadReg dat s = _
    rw [execReadReg, hr]
  | start _ _ _ hi hc hg hs =>
    exact (ifInit_onChannel hi hc _).trans ((ifStartAllowed_of_gate hg).trans (ifState_pass hs))
  | stop _ _ _ hi hc hs | resetOvl _ _ _ hi hc hs | clearFaults _ _ _ hi hc hs =>
    exact (ifInit_onChannel hi hc _).trans (ifState_pass hs)
  | setAmp _ _ _ _ hi hc => exact ifInit_onChannel hi hc _
  | getStatus _ _ _ hc | isSafe _ _ _ hc => exact onChannel_pass hc _
  | ampBcast _ dat hi =>
    refine (ifInit_pass hi).trans ?_
    dsimp only
    rw [foldl_setSetpoint]
  | coordStart _ _ hi hv hg hm hs =>
    refine (ifInit_pass hi).trans ((ifValue_pass hv).trans ((ifStartAllowed_of_gate hg).trans
      ((ifState_pass (decide_eq_true hm)).trans ((ifState_pass ?_).trans ?_))))
    · refine List.all_eq_true.mpr fun j _ => ?_
      simpa [← Bool.not_eq_true, imp_iff_not_or] using hs j
    · rw [foldl_onUnit_if]
  | confirm _ _ _ hi hc hm ha hs => exact (ifInit_onChannel hi hc _).trans (ifState_pass (by simp [hm, ha, hs]))
  | coordStop _ _ hi hv hm => exact (ifInit_pass hi).trans ((ifValue_pass hv).trans (ifState_pass (by simpa using hm)))
  | unitStart _ _ _ hi hc hg hm hs =>
    exact (ifInit_onChannel hi hc _).trans ((ifStartAllowed_of_gate hg).trans
      ((ifState_pass (decide_eq_true hm)).trans (ifState_pass hs)))
  | unitStop _ _ _ hi hc hm => exact (ifInit_onChannel hi hc _).trans (ifState_pass (decide_eq_true hm))
  | reportRecorded _ _ _ _ hi hc hv hm => exact (ifInit_onChannel hi hc _).trans ((ifValue_pass hv).trans (if_pos hm))
  | reportIsolated _ _ _ _ hi hc hv hm => exact (ifInit_onChannel hi hc _).trans ((ifValue_pass hv).trans (if_neg hm))
  | estop _ hi =>
    refine (ifInit_pass hi).trans ?_
    dsimp only
    rw [foldl_uEstop]
    rfl
  | setInhibit _ _ hi hv => exact (ifInit_pass hi).trans (ifValue_pass hv)
  | rearm _ hi hm hs =>
    exact (ifInit_pass hi).trans ((ifState_pass (decide_eq_true hm)).trans
      (ifState_pass (List.all_eq_true.mpr fun j _ => hs j)))
  | setSim _ _ _ _ hd hi hc hv | injectFault _ _ _ _ hd hi hc hv =>
    exact (ifDiag_onChannel hd hi hc _).trans (ifValue_pass hv)
  | forceState _ _ _ _ hd hi hc hv hg =>
    refine (ifDiag_onChannel hd hi hc _).trans ((ifValue_pass hv).trans ?_)
    dsimp only
    split
    · next hf => exact ifStartAllowed_of_gate (hg hf)
    · rfl

end Sys2Proof.Machine
end

section
/-!
SUPPORT. Deferred effects and repeated commands (20_memory.md R44, R47, R49).
-/
namespace Sys2Proof.Machine

open Sys2Proof.Safety

section
variable {i : Instr} {s x : State} {v : BitVec 16}

/-- The actuator is written by INIT, TICK and ESTOP. -/
theorem Accepted.duty (ha : Accepted i s v x) (hinit : i ≠ .init) (htick : i ≠ .tick) (hestop : i ≠ .estop) :
    x.rc.duty = s.rc.duty := by
  cases ha with
  | init => exact absurd rfl hinit
  | tick => exact absurd rfl htick
  | estop => exact absurd rfl hestop
  | coordStop | unitStop => rw [stopChannels_eq]
  | reportIsolated => rw [isolate_eq]
  | _ => rfl

/-- The same of any answer, accepted or rejected. -/
theorem exec_duty {t : State} (h : exec i s = .next t) (hinit : i ≠ .init) (htick : i ≠ .tick) (hestop : i ≠ .estop) :
    t.rc.duty = s.rc.duty :=
  exec_keeps (P := fun s t => t.rc.duty = s.rc.duty) (fun _ _ => rfl)
    (fun _ _ ha _ => ha.duty hinit htick hestop) h

/-- A command that does not act on outputs leaves the state, the outputs and the running flag of every unit. -/
theorem UnitEffect.sameDrive {j : Chan} {w : UnitState} (h : UnitEffect s j i w) (hd : drivesOutputs i = false) :
    SameDrive (s.unit j) w := by
  cases h with
  | init | tick | estop | forceState => cases hd
  | _ => exact ⟨rfl, rfl, rfl, rfl⟩

end

/-! ### A second time: the operations -/

/-- A second start changes nothing, and is valid again. -/
theorem uStart_uStart {u : UnitState} (h : uStartOk u = true) :
    uStartOk (uStart u) = true ∧ uStart (uStart u) = uStart u := by
  obtain ⟨hstate, hfaults, -⟩ := (uStartOk_iff u).mp h
  have e : uStart u = { u with pending := .start } := if_pos h
  have hok : uStartOk (uStart u) = true := (uStartOk_iff _).mpr (by rw [e]; exact ⟨hstate, hfaults, .inr rfl⟩)
  refine ⟨hok, ?_⟩
  rw [uStart, if_pos hok, e]

/-- With a stop pending a valid stop changes nothing: the unit is not IDLE. -/
theorem uStop_of_pending {u : UnitState} (hp : u.pending = .stop) : uStop u = u := by
  unfold uStop
  split
  · next hok =>
    have hne : u.state ≠ .idle := by
      rcases (uStopOk_iff u).mp hok with ⟨hs | hs, -⟩ | ⟨-, hstart⟩
      · simp [hs]
      · simp [hs]
      · simp [hp] at hstart
    rw [if_neg hne, ← hp]
  · rfl

theorem uEstop_uEstop (now : Time) (u : UnitState) : uEstop now (uEstop now u) = uEstop now u := by
  by_cases hf : u.state = .fault ∨ u.state = .unknown <;> simp [uEstop, hf]

/-- An operation of one unit that a second time changes nothing of the unit changes nothing of the state. -/
theorem State.onUnit_onUnit {s : State} {i : Chan} {f : UnitState → UnitState} (h : f (f (s.unit i)) = f (s.unit i)) :
    (s.onUnit i f).onUnit i f = s.onUnit i f :=
  State.onUnit_id _ i f (by rw [State.onUnit_self, h])

/-- The channel set last is already the most recent one. -/
theorem setSetpoint_setSetpoint (a : BitVec 8) (s : State) (i : Chan) :
    setSetpoint a (setSetpoint a s i) i = setSetpoint a s i := by
  have horder : (i :: s.rc.order.filter fun j => j ≠ i).filter (fun j => j ≠ i) = s.rc.order.filter fun j => j ≠ i := by
    simp
  have hunit := State.onUnit_onUnit (s := s) (i := i) (f := fun u => { u with amp := a }) rfl
  calc setSetpoint a (setSetpoint a s i) i
      = { (s.onUnit i fun u => { u with amp := a }).onUnit i (fun u => { u with amp := a }) with
          rc := { s.rc with order := i :: (i :: s.rc.order.filter fun j => j ≠ i).filter fun j => j ≠ i } } := rfl
    _ = setSetpoint a s i := by rw [hunit, horder]; rfl

/-! ### A second time: the commands -/

/-- The commands 20_memory.md R44 calls idempotent; a STOP is so only while a stop is pending. -/
def repeatable : Instr → Bool
  | .nop | .readReg _ | .start _ | .stop _ | .setAmp _ _ | .getStatus _ | .isSafe _ | .ampBcast _ | .estop | .setInhibit _
  | .setSim _ _ => true
  | .init | .tick | .resetOvl _ | .clearFaults _ | .coordStart _ | .confirm _ | .coordStop _ | .unitStart _ | .unitStop _
  | .reportFault _ _ | .rearm | .injectFault _ _ | .forceState _ _ => false

/-- These commands do not read the result word. -/
theorem exec_withResult {i : Instr} (hrep : repeatable i = true) (s : State) (r : Option Word) :
    exec i { s with result := r } = exec i s := by
  cases i with
  | nop | readReg | start | stop | setAmp | getStatus | isSafe | ampBcast | estop | setInhibit | setSim => rfl
  | _ => cases hrep

/-- A repeatable command is accepted again in the state it leaves, and changes nothing there. -/
theorem Accepted.repeated {i : Instr} {s x : State} {v : BitVec 16} (ha : Accepted i s v x) (hrep : repeatable i = true)
    (hstop : ∀ idx ch, i = .stop idx → chanOf idx = some ch → (s.unit ch).pending = .stop) : Accepted i x v x := by
  cases id ha with
  | nop | readReg | getStatus | isSafe => exact ha
  | start _ idx ch hi hc hg hs =>
    obtain ⟨hok, htwice⟩ := uStart_uStart hs
    have h := Accepted.start (s.onUnit ch uStart) idx ch hi hc hg (by rwa [State.onUnit_self])
    rwa [State.onUnit_onUnit htwice] at h
  | stop _ idx ch hi hc hs =>
    have hsame : s.onUnit ch uStop = s := State.onUnit_id s ch _ (uStop_of_pending (hstop idx ch rfl hc))
    rwa [hsame] at ha ⊢
  | setAmp _ idx dat ch hi hc =>
    have h := Accepted.setAmp (setSetpoint (amp16 dat) s ch) idx dat ch hi hc
    rwa [setSetpoint_setSetpoint] at h
  | ampBcast _ dat hi =>
    have h := Accepted.ampBcast
      { s with
        u := perChan fun j => { s.unit j with amp := amp16 dat }
        rc := { s.rc with order := [3, 2, 1, 0], bcast := amp16 dat } } dat hi
    simpa only [unit_mk, chanAt_perChan] using h
  | estop _ hi =>
    have h := Accepted.estop
      { s with
        u := perChan fun j => uEstop s.now (s.unit j)
        rc := { s.rc with duty := 0 }
        m := { s.m with state := .emergencyStop, active := 0, confirmed := 0, stopWait := 0 } } hi
    simpa only [unit_mk, chanAt_perChan, uEstop_uEstop] using h
  | setInhibit _ dat hi hv => exact .setInhibit { s with m := { s.m with inhibit := bool1 dat } } dat hi hv
  | setSim _ idx dat ch hd hi hc hv =>
    have h := Accepted.setSim (s.onUnit ch fun u => { u with sim := bool1 dat }) idx dat ch hd hi hc hv
    rwa [State.onUnit_onUnit rfl] at h
  | _ => cases hrep

end Sys2Proof.Machine
end

section
/-!
The obligations of 20_memory.md.
-/
namespace Sys2Proof.Machine

open Sys2Proof.Safety

/-- Settles O49: the writers of the actuator (`exec_duty`), and what a command outside `drivesOutputs` can do to a unit. -/
theorem commandEffectsAreDeferred : Obligations.CommandEffectsAreDeferred := by
  intro i s t h
  refine ⟨fun hd => ⟨exec_duty h ?_ ?_ ?_, fun j => (exec_unitEffect h j).sameDrive hd⟩, ?force⟩
  case force =>
    rintro ⟨x, d, rfl⟩
    exact exec_duty h nofun nofun nofun
  all_goals
    rintro rfl
    cases hd

/-- Settles O54: a rejection wrote the result word alone, so the same check rejects again; an accepted command is accepted
again and changes nothing (`Accepted.repeated`). -/
theorem idempotentCommands : Obligations.IdempotentCommands := by
  intro s t x d i hi h
  have hrep : repeatable i = true := by
    rcases hi with hi | ⟨ch, rfl, -⟩
    · simp only [List.mem_cons, List.not_mem_nil, or_false] at hi
      rcases hi with rfl | rfl | rfl | rfl | rfl | rfl | rfl | rfl | rfl | rfl <;> rfl
    · rfl
  have hstop : ∀ idx ch, i = .stop idx → chanOf idx = some ch → (s.unit ch).pending = .stop := by
    rintro idx ch rfl hc
    rcases hi with hi | ⟨k, hk, hp⟩
    · simp at hi
    · cases hk
      rw [chanOf_idxOf] at hc
      cases hc
      exact hp
  rcases exec_next h with ⟨c, -, rfl⟩ | ⟨v, y, ha, rfl⟩
  · rw [exec_withResult hrep]
    exact h
  · rw [exec_withResult hrep, (ha.repeated hrep hstop).exec_eq, accept_eq]

end Sys2Proof.Machine
end

section
/-!
SUPPORT. The opcode map (30_encoding.md R56) as a table: one row per opcode, and the decoder and the encoder read through
the row of an opcode (R52, R57, R58).
-/
namespace Sys2Proof

open Sys2Proof.Safety

/-! ### The rows -/

theorem opRows_nodup : (opRows.map OpRow.op).Nodup := by decide

/-- No two rows have the same opcode. -/
theorem opRow_eq_of_op_eq {r r' : OpRow} (hr : r ∈ opRows) (hr' : r' ∈ opRows) (h : r.op = r'.op) : r = r' :=
  List.inj_on_of_nodup_map opRows_nodup hr hr' h

/-- Every command is the command of a row, which is one of the diagnostic rows exactly for a diagnostic command. -/
theorem exists_opRow (i : Instr) : ∃ r ∈ opRows, ∃ x m d, r.command x m d = i ∧ r.diag = diagnostic i := by
  have row : ∀ (n : Nat) {r : OpRow}, opRows[n]? = some r → ∀ (x m : BitVec 4) (d : BitVec 16), r.command x m d = i →
      r.diag = diagnostic i → ∃ r ∈ opRows, ∃ x m d, r.command x m d = i ∧ r.diag = diagnostic i :=
    fun _ r hr x m d hcommand hdiag => ⟨r, List.mem_of_getElem? hr, x, m, d, hcommand, hdiag⟩
  cases i with
  | nop => exact row 0 rfl 0 0 0 rfl rfl
  | init => exact row 1 rfl 0 0 0 rfl rfl
  | tick => exact row 2 rfl 0 0 0 rfl rfl
  | readReg d => exact row 3 rfl 0 0 d rfl rfl
  | start x => exact row 4 rfl x 0 0 rfl rfl
  | stop x => exact row 5 rfl x 0 0 rfl rfl
  | setAmp x d => exact row 6 rfl x 0 d rfl rfl
  | resetOvl x => exact row 7 rfl x 0 0 rfl rfl
  | clearFaults x => exact row 8 rfl x 0 0 rfl rfl
  | getStatus x => exact row 9 rfl x 0 0 rfl rfl
  | isSafe x => exact row 10 rfl x 0 0 rfl rfl
  | ampBcast d => exact row 11 rfl 0 0 d rfl rfl
  | coordStart m => exact row 12 rfl 0 m 0 rfl rfl
  | confirm x => exact row 13 rfl x 0 0 rfl rfl
  | coordStop m => exact row 14 rfl 0 m 0 rfl rfl
  | unitStart x => exact row 15 rfl x 0 0 rfl rfl
  | unitStop x => exact row 16 rfl x 0 0 rfl rfl
  | reportFault x d => exact row 17 rfl x 0 d rfl rfl
  | estop => exact row 18 rfl 0 0 0 rfl rfl
  | setInhibit d => exact row 19 rfl 0 0 d rfl rfl
  | rearm => exact row 20 rfl 0 0 0 rfl rfl
  | setSim x d => exact row 21 rfl x 0 d rfl rfl
  | injectFault x d => exact row 22 rfl x 0 d rfl rfl
  | forceState x d => exact row 23 rfl x 0 d rfl rfl

/-- The rows that use the index field. -/
theorem usesIdx_iff {r : OpRow} (hr : r ∈ opRows) : r.usesIdx = true ↔
    r.op.toNat ∈ [0x10, 0x11, 0x12, 0x13, 0x14, 0x15, 0x16, 0x21, 0x23, 0x24, 0x25, 0x30, 0x31, 0x32] := by
  fin_cases hr <;> decide

/-- The rows that use the mask field. -/
theorem usesMsk_iff {r : OpRow} (hr : r ∈ opRows) : r.usesMsk = true ↔ r.op.toNat ∈ [0x20, 0x22] := by
  fin_cases hr <;> decide

/-- The rows that use the data field. -/
theorem usesDat_iff {r : OpRow} (hr : r ∈ opRows) : r.usesDat = true ↔
    r.op.toNat ∈ [0x03, 0x12, 0x17, 0x25, 0x27, 0x30, 0x31, 0x32] := by
  fin_cases hr <;> decide

/-! ### The fields of a word -/

theorem opField_toNat (w : Word) : (opField w).toNat = (w >>> 24).toNat := by
  simp only [opField, BitVec.extractLsb'_toNat, BitVec.toNat_ushiftRight, Nat.shiftRight_eq_div_pow]
  omega

theorem idxField_toNat (w : Word) : (idxField w).toNat = (w >>> 20).toNat % 16 := by
  simp [idxField]

theorem mskField_toNat (w : Word) : (mskField w).toNat = (w >>> 16).toNat % 16 := by
  simp [mskField]

theorem datField_toNat (w : Word) : (datField w).toNat = w.toNat % 65536 := by
  simp [datField]

theorem OpRow.unusedZero_iff (r : OpRow) (w : Word) : r.unusedZero w = true ↔
    (r.usesIdx = false → idxField w = 0#4) ∧ (r.usesMsk = false → mskField w = 0#4) ∧
      (r.usesDat = false → datField w = 0#16) := by
  simp [OpRow.unusedZero, ← Bool.not_eq_true, or_iff_not_imp_left, and_assoc]

theorem OpRow.unusedZero_eq_false_iff (r : OpRow) (w : Word) : r.unusedZero w = false ↔
    (r.usesIdx = false ∧ idxField w ≠ 0#4) ∨ (r.usesMsk = false ∧ mskField w ≠ 0#4) ∨
      (r.usesDat = false ∧ datField w ≠ 0#16) := by
  simp only [OpRow.unusedZero, Bool.and_eq_false_iff, Bool.or_eq_false_iff, decide_eq_false_iff_not, or_assoc, ne_eq]

/-! ### The encoder, row by row -/

/-- A field as a row writes it: 0 where the row does not use it (R57). -/
def maskedField {n : Nat} (used : Bool) (x : BitVec n) : BitVec n := if used then x else 0

/-- A row's command is encoded in the row's opcode and the fields the row uses. -/
theorem encode_command {r : OpRow} (hr : r ∈ opRows) (x m : BitVec 4) (d : BitVec 16) :
    encode (r.command x m d) =
      wordOf r.op (maskedField r.usesIdx x) (maskedField r.usesMsk m) (maskedField r.usesDat d) := by
  fin_cases hr <;> rfl

/-- A row's command reads the fields the row uses alone. -/
theorem command_maskedField {r : OpRow} (hr : r ∈ opRows) (x m : BitVec 4) (d : BitVec 16) :
    r.command (maskedField r.usesIdx x) (maskedField r.usesMsk m) (maskedField r.usesDat d) = r.command x m d := by
  fin_cases hr <;> rfl

/-- The word that encodes a row's command is 0 in the fields the row does not use. -/
theorem OpRow.unusedZero_wordOf (r : OpRow) (x m : BitVec 4) (d : BitVec 16) : r.unusedZero
    (wordOf r.op (maskedField r.usesIdx x) (maskedField r.usesMsk m) (maskedField r.usesDat d)) = true := by
  simp +contextual [OpRow.unusedZero_iff, maskedField]

/-- A field that is 0 where the row does not use it is as the row writes it. -/
theorem maskedField_eq_self {n : Nat} {used : Bool} {x : BitVec n} (h : used = false → x = 0) :
    maskedField used x = x := by
  cases used
  · exact (h rfl).symm
  · rfl

/-! ### The decoder, row by row -/

/-- A row's opcode is decoded where it is present. -/
abbrev OpRow.present (r : OpRow) (diag : Bool) : Prop := r.diag = true → diag = true

/-- The row of a word's opcode decodes the word, where the row is present. -/
theorem decode_of_opRow {r : OpRow} (hr : r ∈ opRows) {w : Word} (hop : r.op = opField w) {diag : Bool}
    (hdiag : r.present diag) :
    decode diag w =
      if r.unusedZero w then .instr (r.command (idxField w) (mskField w) (datField w)) else .reservedField := by
  have hmatch : (r.op == opField w && (diag || !r.diag)) = true := by
    cases hd : r.diag <;> simp_all
  have hsome : (opRows.find? fun r => r.op == opField w && (diag || !r.diag)).isSome :=
    List.find?_isSome.mpr ⟨r, hr, hmatch⟩
  obtain ⟨r', hfind⟩ := Option.isSome_iff_exists.mp hsome
  obtain ⟨hop', -⟩ : r'.op = opField w ∧ (diag = true ∨ r'.diag = false) := by simpa using List.find?_some hfind
  have heq : r' = r := opRow_eq_of_op_eq (List.mem_of_find?_eq_some hfind) hr (hop'.trans hop.symm)
  rw [decode, hfind, heq]

/-- An opcode without a row that is present is illegal (R58). -/
theorem decode_of_no_opRow {w : Word} {diag : Bool} (h : ∀ r ∈ opRows, r.op = opField w → ¬ r.present diag) :
    decode diag w = .illegalOpcode := by
  have hnone : opRows.find? (fun r => r.op == opField w && (diag || !r.diag)) = none := by
    refine List.find?_eq_none.mpr fun r hr hmatch => ?_
    simp only [Bool.and_eq_true, beq_iff_eq, Bool.or_eq_true, Bool.not_eq_true'] at hmatch
    obtain ⟨hop, hpres⟩ := hmatch
    exact h r hr hop fun hd => hpres.resolve_right (by simp [hd])
  rw [decode, hnone]

/-- A word is illegal, or the row of its opcode is present. -/
theorem decode_illegal_or_opRow (diag : Bool) (w : Word) :
    decode diag w = .illegalOpcode ∨ ∃ r ∈ opRows, r.op = opField w ∧ r.present diag := by
  by_cases h : ∃ r ∈ opRows, r.op = opField w ∧ r.present diag
  · exact .inr h
  · exact .inl (decode_of_no_opRow fun r hr hop hp => h ⟨r, hr, hop, hp⟩)

theorem decode_eq_illegalOpcode_iff (diag : Bool) (w : Word) :
    decode diag w = .illegalOpcode ↔ ¬ ∃ r ∈ opRows, r.op = opField w ∧ r.present diag := by
  constructor
  · rintro h ⟨r, hr, hop, hp⟩
    rw [decode_of_opRow hr hop hp] at h
    split at h <;> cases h
  · exact fun h => (decode_illegal_or_opRow diag w).resolve_right h

/-- A word is a reserved-field rejection exactly if a field its row does not use is not zero (R57). -/
theorem decode_eq_reservedField_iff {r : OpRow} (hr : r ∈ opRows) {w : Word} (hop : r.op = opField w) {diag : Bool}
    (hdiag : r.present diag) : decode diag w = .reservedField ↔
      (r.usesIdx = false ∧ idxField w ≠ 0#4) ∨ (r.usesMsk = false ∧ mskField w ≠ 0#4) ∨
        (r.usesDat = false ∧ datField w ≠ 0#16) := by
  rw [← r.unusedZero_eq_false_iff, decode_of_opRow hr hop hdiag]
  cases r.unusedZero w <;> simp

/-- A word that decodes to a command has the opcode of a row and 0 in the fields the row does not use, and the command is
the row's, of the word's fields. -/
theorem exists_opRow_of_decode {diag : Bool} {w : Word} {i : Instr} (h : decode diag w = .instr i) :
    ∃ r ∈ opRows, r.op = opField w ∧ r.unusedZero w = true ∧ r.command (idxField w) (mskField w) (datField w) = i := by
  rcases decode_illegal_or_opRow diag w with hill | ⟨r, hr, hop, hp⟩
  · rw [hill] at h
    cases h
  · rw [decode_of_opRow hr hop hp] at h
    split at h
    · next hz => exact ⟨r, hr, hop, hz, Decoded.instr.inj h⟩
    · cases h

/-- A block of rows with consecutive opcodes, all of them diagnostic or none. -/
theorem exists_present_iff {rows : List OpRow} {p : Bool} {first count : Nat} (hdiag : ∀ r ∈ rows, r.diag = p)
    (hops : (rows.map fun r => r.op.toNat) = List.range' first count) (diag : Bool) (op : BitVec 8) :
    (∃ r ∈ rows, r.op = op ∧ r.present diag) ↔
      (p = true → diag = true) ∧ first ≤ op.toNat ∧ op.toNat < first + count := by
  rw [← List.mem_range'_1, ← hops, List.mem_map]
  constructor
  · rintro ⟨r, hr, rfl, hp⟩
    exact ⟨hdiag r hr ▸ hp, r, hr, rfl⟩
  · rintro ⟨hp, r, hr, hop⟩
    exact ⟨r, hr, BitVec.eq_of_toNat_eq hop, fun hd => hp ((hdiag r hr).symm.trans hd)⟩

/-- The opcodes with a row that is present, as ranges (R56, R58). -/
theorem exists_opRow_iff (diag : Bool) (op : BitVec 8) :
    (∃ r ∈ opRows, r.op = op ∧ r.present diag) ↔
      op.toNat ≤ 0x03 ∨ (0x10 ≤ op.toNat ∧ op.toNat ≤ 0x17) ∨ (0x20 ≤ op.toNat ∧ op.toNat ≤ 0x28) ∨
        (diag = true ∧ 0x30 ≤ op.toNat ∧ op.toNat ≤ 0x32) := by
  have system := exists_present_iff (rows := systemRows) (p := false) (first := 0x00) (count := 4)
    (by decide) (by decide) diag op
  have unit := exists_present_iff (rows := unitRows) (p := false) (first := 0x10) (count := 8)
    (by decide) (by decide) diag op
  have master := exists_present_iff (rows := masterRows) (p := false) (first := 0x20) (count := 9)
    (by decide) (by decide) diag op
  have diagnostics := exists_present_iff (rows := diagRows) (p := true) (first := 0x30) (count := 3)
    (by decide) (by decide) diag op
  simp only [opRows, List.mem_append, or_and_right, exists_or, system, unit, master, diagnostics]
  grind

end Sys2Proof
end

section
/-!
SUPPORT. A step on a presented command word, and the failed checks of a command (30_encoding.md R59).
-/
namespace Sys2Proof.Machine

/-- A legal step on a presented command word runs what the word decodes to. -/
theorem step_cmd {s : State} {w : Word} {now : Time} {inp : Sample} {rest : List Transaction}
    (hlegal : s.cfg.legal = true) (hport : s.port = .cmd w now inp :: rest) :
    step s = runDecoded (decode s.cfg.diagPresent w) (present s now inp rest) := by
  rw [step_of_port_cons hport, runTransaction_cmd hlegal]

section
variable {s : State} {k : Answer}

theorem ifDiag_fail (h : s.cfg.diagPresent = false) : ifDiag s k = s.reject .illegalOpcode := if_neg (by simp [h])

theorem ifInit_fail (h : s.sys.initialized = false) : ifInit s k = s.reject .notInit := if_neg (by simp [h])

theorem onChannel_fail {idx : BitVec 4} (h : 4 ≤ idx.toNat) (k : Chan → Answer) :
    onChannel s idx k = s.reject .badIndex := by
  rw [onChannel, chanOf, dif_neg (by omega)]

/-- A bad index past the check for initialisation. -/
theorem ifInit_onChannel_fail {idx : BitVec 4} (hi : s.sys.initialized = true) (h : 4 ≤ idx.toNat) (k : Chan → Answer) :
    ifInit s (onChannel s idx k) = s.reject .badIndex :=
  (ifInit_pass hi).trans (onChannel_fail h k)

/-- A bad index past the checks of a diagnostic command before it. -/
theorem ifDiag_onChannel_fail {idx : BitVec 4} (hd : s.cfg.diagPresent = true) (hi : s.sys.initialized = true)
    (h : 4 ≤ idx.toNat) (k : Chan → Answer) : ifDiag s (ifInit s (onChannel s idx k)) = s.reject .badIndex :=
  (ifDiag_pass hd).trans (ifInit_onChannel_fail hi h k)

end

end Sys2Proof.Machine
end

section
/-!
The obligations of 30_encoding.md about the decoder and the encoder.
-/
namespace Sys2Proof

open Sys2Proof.Machine Sys2Proof.Safety

/-- Settles O2: a command is encoded by its row (`encode_command`), and the row of an opcode decodes it. -/
theorem decodeOfEncode : Obligations.DecodeOfEncode := by
  intro diag i hdiag
  obtain ⟨r, hr, x, m, d, rfl, hd⟩ := exists_opRow i
  rw [encode_command hr, decode_of_opRow hr (opField_wordOf ..).symm (fun h => hdiag (hd ▸ h)),
    if_pos (r.unusedZero_wordOf ..)]
  simp only [idxField_wordOf, mskField_wordOf, datField_wordOf, command_maskedField hr]

/-- Settles O3: the row that decoded the word encodes its command from the word's own fields; those it does not write are
zero in the word. -/
theorem encodeOfDecode : Obligations.EncodeOfDecode := by
  intro diag w i h
  obtain ⟨r, hr, hop, hzero, rfl⟩ := exists_opRow_of_decode h
  obtain ⟨hidx, hmsk, hdat⟩ := (r.unusedZero_iff w).mp hzero
  calc encode (r.command (idxField w) (mskField w) (datField w))
      = wordOf r.op (maskedField r.usesIdx (idxField w)) (maskedField r.usesMsk (mskField w))
          (maskedField r.usesDat (datField w)) := encode_command hr ..
    _ = wordOf (opField w) (idxField w) (mskField w) (datField w) := by
      rw [maskedField_eq_self hidx, maskedField_eq_self hmsk, maskedField_eq_self hdat, hop]
    _ = w := (word_eq_wordOf w).symm

/-- Settles O4: the opcodes without a present row are the complement of the ranges of R56. -/
theorem unassignedOpcodesIllegal : Obligations.UnassignedOpcodesIllegal := by
  intro s w now inp rest op hlegal hport
  refine ⟨?ranges, fun h => ?rejected⟩
  case ranges =>
    rw [decode_eq_illegalOpcode_iff, exists_opRow_iff, opField_toNat, ← Bool.not_eq_true]
    grind
  case rejected =>
    rw [step_cmd hlegal hport, h]
    rfl

/-- Settles O5: the row of the opcode rejects the word exactly if a field it does not use is not zero, and its columns are
those of R56. -/
theorem unusedFieldsReserved : Obligations.UnusedFieldsReserved := by
  intro s w now inp rest op usesIdx usesMsk usesDat hlegal hport hassigned
  refine ⟨?fields, fun h => ?rejected⟩
  case fields =>
    obtain ⟨r, hr, hop, hp⟩ := (decode_illegal_or_opRow _ w).resolve_left hassigned
    have hopNat : op = r.op.toNat := by rw [hop, opField_toNat]
    have hidx : usesIdx ↔ r.usesIdx = true := by rw [usesIdx_iff hr, ← hopNat]
    have hmsk : usesMsk ↔ r.usesMsk = true := by rw [usesMsk_iff hr, ← hopNat]
    have hdat : usesDat ↔ r.usesDat = true := by rw [usesDat_iff hr, ← hopNat]
    rw [decode_eq_reservedField_iff hr hop hp, hidx, hmsk, hdat]
    simp only [Bool.not_eq_true, ne_eq, BitVec.toNat_eq, idxField_toNat, mskField_toNat, datField_toNat,
      BitVec.toNat_ofNat, Nat.zero_mod]
  case rejected =>
    rw [step_cmd hlegal hport, h]
    rfl

/-- Settles O16: the diagnostic rows are the rows of their opcodes, and without DIAG_PRESENT none of them is present. -/
theorem diagnosticsAbsent : Obligations.DiagnosticsAbsent := by
  intro i hi
  refine ⟨?decoder, fun s hs => ?meaning⟩
  case decoder =>
    obtain ⟨r, hr, x, m, d, rfl, hd⟩ := exists_opRow i
    refine decode_of_no_opRow fun r' hr' hop hp => ?_
    rw [encode_command hr, opField_wordOf] at hop
    rw [opRow_eq_of_op_eq hr' hr hop] at hp
    exact absurd (hp (hd.trans hi)) (by decide)
  case meaning =>
    cases i with
    | setSim | injectFault | forceState => exact ifDiag_fail hs
    | _ => cases hi

/-- Settles O1: eleven words and two result words, each computed. -/
theorem specEncodingsDecode : Obligations.SpecEncodingsDecode := by
  refine ⟨?_, ?_, ?_, ?_, ?_, ?_, ?_, ?_, ?_, ?_, ?_, ?_, ?_⟩ <;> decide

end Sys2Proof
end

section
/-!
SUPPORT. The result word (30_encoding.md R53, R54) and the clamped setpoint (R55).
-/
namespace Sys2Proof.Machine

open Sys2Proof.Safety

/-! ### The result word -/

@[simp] theorem ResultCode.code_toNat (c : ResultCode) : c.code.toNat = resultNumber c := by
  cases c <;> rfl

theorem resultNumber_le (c : ResultCode) : resultNumber c ≤ 8 := by
  cases c <;> decide

/-- The result word as a number. -/
theorem resultWord_toNat (v : BitVec 16) (c : ResultCode) :
    (resultWord v c).toNat = 65536 * v.toNat + resultNumber c := by
  simp only [resultWord, toNat_append_eq, BitVec.toNat_zero, ResultCode.code_toNat]
  omega

/-- The commands that return a value. -/
def returnsValue : Instr → Bool
  | .tick | .readReg _ | .getStatus _ | .isSafe _ => true
  | .nop | .init | .start _ | .stop _ | .setAmp _ _ | .resetOvl _ | .clearFaults _ | .ampBcast _ | .coordStart _
  | .confirm _ | .coordStop _ | .unitStart _ | .unitStop _ | .reportFault _ _ | .estop | .setInhibit _ | .rearm
  | .setSim _ _ | .injectFault _ _ | .forceState _ _ => false

/-- Any other command returns 0. -/
theorem Accepted.value_eq_zero {i : Instr} {s x : State} {v : BitVec 16} (ha : Accepted i s v x)
    (hi : returnsValue i = false) : v = 0#16 := by
  cases ha with
  | tick | readReg | getStatus | isSafe => cases hi
  | _ => rfl

/-! ### The setpoint operand -/

/-- A clamped setpoint as an integer. -/
theorem amp16_toNat (dat : BitVec 16) : ((amp16 dat).toNat : Int) = min (max dat.toInt 20) 100 := by
  simp only [amp16, clamp, Config.ampMin, Config.ampMax, BitVec.toNat_ofInt]
  omega

/-- A setpoint change, its unit and its order written out (40_unit_controller.md R70). -/
theorem setSetpoint_eq (a : BitVec 8) (s : State) (i : Chan) : setSetpoint a s i =
    { s.setUnit i { s.unit i with amp := a } with
      rc := { s.rc with order := i :: s.rc.order.filter (fun j => j ≠ i) } } := rfl

end Sys2Proof.Machine
end

section
/-!
SUPPORT. The bus writes (30_encoding.md R61) by the register they name.
-/
namespace Sys2Proof.Machine

open Sys2Proof.Safety

/-- An address lies in the block of a channel, or in none. -/
theorem blockOf_eq_some_iff {a : Nat} {i : Chan} {off : Nat} :
    blockOf a = some (i, off) ↔ off < 16 ∧ a = 0x20 + 0x10 * i.val + off := by
  have hi := i.isLt
  unfold blockOf
  split
  · simp only [Option.some.injEq, Prod.mk.injEq, Fin.ext_iff]
    omega
  · simp only [reduceCtorEq, false_iff]
    omega

/-- A write to CHi_CMD. -/
theorem writeReg_command (i : Chan) (v : BitVec 16) :
    writeReg (BitVec.ofNat 16 (0x20 + 0x10 * i.val)) v = writeChCmd i v := by
  have hblock : blockOf (BitVec.ofNat 16 (0x20 + 0x10 * i.val)).toNat = some (i, 0) :=
    blockOf_channel i (off := 0) (by decide)
  rw [writeReg, hblock]
  rfl

/-- A write to CHi_AMPLITUDE. -/
theorem writeReg_amplitude (i : Chan) (v : BitVec 16) :
    writeReg (BitVec.ofNat 16 (0x21 + 0x10 * i.val)) v = .command (.setAmp (idxOf i) v) := by
  have haddr : 0x21 + 0x10 * i.val = 0x20 + 0x10 * i.val + 1 := by omega
  rw [haddr, writeReg, blockOf_channel i (off := 1) (by decide)]
  rfl

/-- A write to any other address but the two system registers that can be written. -/
theorem writeReg_eq_badValue {a : BitVec 16} (v : BitVec 16) (hinhibit : a ≠ 0x0010#16) (hbcast : a ≠ 0x0011#16)
    (hchan : ∀ i : Chan, a.toNat ≠ 0x20 + 0x10 * i.val ∧ a.toNat ≠ 0x21 + 0x10 * i.val) :
    writeReg a v = .badValue := by
  unfold writeReg
  split
  · next i h => exact absurd (blockOf_eq_some_iff.mp h).2 (hchan i).1
  · next i h =>
    have := (blockOf_eq_some_iff.mp h).2
    exact absurd (by omega) (hchan i).2
  · rfl
  · rw [if_neg hinhibit, if_neg hbcast]

/-- A value with another bit pattern than one command's. -/
theorem writeChCmd_eq_badValue (i : Chan) {v : BitVec 16} (hv : v ∉ [0x0#16, 0x1#16, 0x2#16, 0x4#16, 0x8#16]) :
    writeChCmd i v = .badValue := by
  simp only [List.mem_cons, List.not_mem_nil, or_false, BitVec.toNat_eq, BitVec.toNat_ofNat] at hv
  unfold writeChCmd
  dsimp only
  split
  case h_6 => rfl
  all_goals omega

end Sys2Proof.Machine
end

section
/-!
The obligations of 30_encoding.md about answers, checks and pseudo-instructions.
-/
namespace Sys2Proof.Machine

open Sys2Proof.Safety

/-- Settles O14: a rejection writes its code and value 0 alone; a completed command has code 0, and value 0 too but for the
four commands that return one. -/
theorem resultWordLayout : Obligations.ResultWordLayout := by
  refine ⟨resultWord_toNat, fun i s => ?_⟩
  have hle : ∀ c : ResultCode, c.code.toNat ≤ 8 := fun c => (ResultCode.code_toNat c).le.trans (resultNumber_le c)
  obtain ⟨t, ht⟩ := exec_answers i s
  rcases exec_next ht with ⟨c, -, rfl⟩ | ⟨v, x, ha, rfl⟩
  · exact ⟨_, 0#16, c.code, ht, rfl, hle c, fun _ => ⟨rfl, rfl⟩, fun _ _ _ _ => rfl⟩
  · refine ⟨_, v, ResultCode.ok.code, ht, rfl, hle .ok, fun hc => absurd rfl hc, fun htick hread hstatus hsafe => ?_⟩
    refine ha.value_eq_zero ?_
    cases i with
    | tick => exact absurd rfl htick
    | readReg a => exact absurd rfl (hread a)
    | getStatus x => exact absurd rfl (hstatus x)
    | isSafe x => exact absurd rfl (hsafe x)
    | _ => rfl

/-- Settles O15: the check for initialisation is the first of every such command, or the second of a diagnostic one. -/
theorem notInitBeforeInit : Obligations.NotInitBeforeInit := by
  intro i s hinit hi hdiag
  cases i with
  | nop | init | readReg | getStatus | isSafe => cases hi
  | setSim | injectFault | forceState => exact (ifDiag_pass (hdiag rfl)).trans (ifInit_fail hinit)
  | _ => exact ifInit_fail hinit

/-- Settles O17: past the checks before it, the index names no channel. -/
theorem badIndexRejected : Obligations.BadIndexRejected := by
  intro x d i s hx hi hinit hdiag
  cases i with
  | getStatus y | isSafe y =>
    obtain rfl : y = x := by simpa using hi
    exact onChannel_fail hx _
  | start y | stop y | resetOvl y | clearFaults y | confirm y | unitStart y | unitStop y =>
    obtain rfl : y = x := by simpa using hi
    exact ifInit_onChannel_fail (by simpa using hinit) hx _
  | setAmp y e | reportFault y e =>
    obtain ⟨rfl, rfl⟩ : y = x ∧ e = d := by simpa using hi
    exact ifInit_onChannel_fail (by simpa using hinit) hx _
  | setSim y e | injectFault y e | forceState y e =>
    obtain ⟨rfl, rfl⟩ : y = x ∧ e = d := by simpa using hi
    exact ifDiag_onChannel_fail (hdiag (by simp)) (by simpa using hinit) hx _
  | _ => simp at hi

/-- Settles O25: SET_AMP has no check but the index's, and stores the clamped operand. -/
theorem setAmpClampsAndStores : Obligations.SetAmpClampsAndStores := by
  intro s i dat hinit
  have hamp := amp16_toNat dat
  refine ⟨amp16 dat, fun hlo => ?_, fun hhi => ?_, fun hlo hhi => ?_, ?_⟩
  · exact BitVec.eq_of_toNat_eq (show (amp16 dat).toNat = 20 by omega)
  · exact BitVec.eq_of_toNat_eq (show (amp16 dat).toNat = 100 by omega)
  · omega
  · rw [(Accepted.setAmp s (idxOf i) dat i hinit (chanOf_idxOf i)).exec_eq, accept_eq_returning, setSetpoint_eq]

/-- Settles O59: the writes by register, and the fixed expansions. -/
theorem pseudoInstructionsExpand : Obligations.PseudoInstructionsExpand := by
  refine ⟨fun _ => rfl, fun _ => rfl, fun _ => rfl, writeReg_amplitude, fun i => ?command,
    fun a v => writeReg_eq_badValue v, rfl, rfl, rfl⟩
  case command =>
    intro cmd
    have hcmd : ∀ v, cmd v = writeChCmd i v := writeReg_command i
    simp only [hcmd]
    exact ⟨rfl, rfl, rfl, rfl, rfl, fun v => writeChCmd_eq_badValue i⟩

end Sys2Proof.Machine
end

section
/-!
SUPPORT. The unit commands (40_unit_controller.md section 2): a failed state condition, an accepted effect with its result
word, and the UC's own operations where they are valid (R64 to R67).
-/
namespace Sys2Proof.Machine

open Sys2Proof.Safety

/-- A command whose state condition, given by its meaning, does not hold. -/
theorem ifState_fail {s : State} {k : Answer} {b : Bool} {P : Prop} (hb : b = true ↔ P) (h : ¬ P) :
    ifState s b k = s.reject .badState :=
  if_neg (mt hb.mp h)

/-- An accepted command answers its effect and value, with code 0 in the low half of the result word. -/
theorem Accepted.exec_returning {i : Instr} {s x : State} {v : BitVec 16} (ha : Accepted i s v x) :
    exec i s = .next (returning v x) :=
  ha.exec_eq.trans (accept_eq_returning x v)

/-- The same for an operation of one unit that leaves it as `w`. -/
theorem Accepted.exec_onUnit {i : Instr} {s : State} {ch : Chan} {f : UnitState → UnitState} {v : BitVec 16}
    (ha : Accepted i s v (s.onUnit ch f)) {w : UnitState} (hw : f (s.unit ch) = w) :
    exec i s = .next (returning v (s.setUnit ch w)) := by
  rw [ha.exec_returning, State.onUnit, hw]

theorem uStart_of_ok {u : UnitState} (h : uStartOk u = true) : uStart u = { u with pending := .start } := if_pos h

theorem uStart_of_not_ok {u : UnitState} (h : uStartOk u = false) : uStart u = u := if_neg (by simp [h])

/-- A valid stop in IDLE cancels the start not yet committed. -/
theorem uStop_of_idle {u : UnitState} (h : uStopOk u = true) (hs : u.state = .idle) :
    uStop u = { u with pending := .none } := by
  rw [uStop, if_pos h, if_pos hs]

/-- A valid stop elsewhere is latched. -/
theorem uStop_of_not_idle {u : UnitState} (h : uStopOk u = true) (hs : u.state ≠ .idle) :
    uStop u = { u with pending := .stop } := by
  rw [uStop, if_pos h, if_neg hs]

theorem uStop_of_not_ok {u : UnitState} (h : uStopOk u = false) : uStop u = u := if_neg (by simp [h])

theorem safe_iff (u : UnitState) :
    safe u = true ↔ (u.state = .idle ∨ u.state = .fault) ∧ u.startOut = false ∧ u.resetOut = false := by
  simp [safe, and_assoc]

/-- A unit emergency stop leaves FAULT or IDLE, with both outputs off. -/
theorem safe_uEstop (now : Time) (u : UnitState) : safe (uEstop now u) = true := by
  refine (safe_iff _).mpr ⟨?_, rfl, rfl⟩
  by_cases h : u.state = .fault ∨ u.state = .unknown
  · exact .inr (if_pos h)
  · exact .inl (if_neg h)

end Sys2Proof.Machine
end

section
/-!
The obligations of 40_unit_controller.md about the commands of one unit, and ESTOP.
-/
namespace Sys2Proof.Machine

open Sys2Proof.Safety

/-- Settles O55: the definition of safe, and the states and outputs UEstop leaves. -/
theorem safeMeansIdleOrFaultAndQuiet : Obligations.SafeMeansIdleOrFaultAndQuiet :=
  fun u => ⟨safe_iff u, fun now => ⟨safe_uEstop now u, rfl⟩⟩

/-- Settles O56: the two conditions, and each operation where its condition holds and where it does not. -/
theorem unitStartAndStopOperations : Obligations.UnitStartAndStopOperations :=
  fun u => ⟨uStartOk_iff u, uStopOk_iff u, uStart_of_ok, uStart_of_not_ok, uStop_of_idle, uStop_of_not_idle,
    uStop_of_not_ok⟩

/-- Settles O22: the four are accepted in every state, and leave it. -/
theorem readsReturnAndWriteNothing : Obligations.ReadsReturnAndWriteNothing := by
  intro s
  refine ⟨(Accepted.nop s).exec_returning, fun a v hr => (Accepted.readReg s a v hr).exec_returning,
    fun i => (Accepted.getStatus s _ i (chanOf_idxOf i)).exec_returning, fun i => ?isSafe⟩
  case isSafe =>
    have hbit : (BitVec.ofBool (safe (s.unit i))).setWidth 16 = if safe (s.unit i) then 1#16 else 0#16 := by
      cases safe (s.unit i) <;> rfl
    rw [(Accepted.isSafe s _ i (chanOf_idxOf i)).exec_returning, hbit]
    rfl

/-- Settles O20: past the checks before it, the check of the state fails. -/
theorem unitCommandsBadState : Obligations.UnitCommandsBadState := by
  intro s ch hinit
  refine ⟨fun hgate h => ?start, fun h => ?stop, fun h => ?resetOvl, fun h => ?clearFaults⟩
  all_goals refine (ifInit_onChannel hinit (chanOf_idxOf ch) _).trans ?_
  case start => exact (ifStartAllowed_pass hgate).trans (ifState_fail (uStartOk_iff _) h)
  case stop => exact ifState_fail (uStopOk_iff _) h
  case resetOvl => exact ifState_fail (resetOvlOk_iff _) h
  case clearFaults => exact ifState_fail (clearFaultsOk_iff _) h

/-- Settles O24: both commands are accepted, and what UStart and UStop write there. -/
theorem startAndStopLatchRequests : Obligations.StartAndStopLatchRequests := by
  intro s i hinit
  refine ⟨fun hgate hstart => ?start, fun hs hp => ?stop, fun hs hp => ?cancel⟩
  case start =>
    have hok : uStartOk (s.unit i) = true := (uStartOk_iff _).mpr hstart
    exact (Accepted.start s _ i hinit (chanOf_idxOf i) ((startGate_none_iff _).mpr hgate) hok).exec_onUnit
      (uStart_of_ok hok)
  case stop =>
    have hok : uStopOk (s.unit i) = true := (uStopOk_iff _).mpr (.inl ⟨hs, hp⟩)
    have hne : (s.unit i).state ≠ .idle := by rcases hs with hs | hs <;> simp [hs]
    exact (Accepted.stop s _ i hinit (chanOf_idxOf i) hok).exec_onUnit (uStop_of_not_idle hok hne)
  case cancel =>
    have hok : uStopOk (s.unit i) = true := (uStopOk_iff _).mpr (.inr ⟨hs, hp⟩)
    exact (Accepted.stop s _ i hinit (chanOf_idxOf i) hok).exec_onUnit (uStop_of_idle hok hs)

/-- Settles O26: both commands are accepted under their condition, and latch their request. -/
theorem resetsLatchRequest : Obligations.ResetsLatchRequest := by
  intro s i hinit
  refine ⟨fun h => ?resetOvl, fun h => ?clearFaults⟩
  case resetOvl =>
    exact (Accepted.resetOvl s _ i hinit (chanOf_idxOf i) ((resetOvlOk_iff _).mpr h)).exec_onUnit rfl
  case clearFaults =>
    exact (Accepted.clearFaults s _ i hinit (chanOf_idxOf i) ((clearFaultsOk_iff _).mpr h)).exec_onUnit rfl

/-- Settles O33: ESTOP is accepted in every initialised state, and each unit is what UEstop leaves, safe and not running. -/
theorem estopReachesSafePosture : Obligations.EstopReachesSafePosture := by
  intro s hinit
  refine ⟨_, (Accepted.estop s hinit).exec_returning, ⟨fun i => ?_, rfl⟩, rfl⟩
  rw [unit_mk, chanAt_perChan]
  exact ⟨safe_uEstop _ _, rfl⟩

end Sys2Proof.Machine
end

section
/-!
SUPPORT. The transitions of the unit update, case by case (40_unit_controller.md R76), and what a TICK leaves of a unit.
-/
namespace Sys2Proof.Machine

open Sys2Proof.Safety

theorem timerDone_iff (now t limit : Time) : timerDone now t limit = true ↔ limit.toNat ≤ (now - t).toNat := by
  simp [timerDone, elapsed, BitVec.le_def]

/-- The quotient of R75 fits its field: a pulse count has 16 bits. -/
theorem freqOf_toNat (smp : ChannelSample) :
    (freqOf smp).toNat = smp.pulseCount.toNat * 10 * 1000 / smp.windowMs.toNat := by
  have hcount := smp.pulseCount.isLt
  have hquot := Nat.div_le_self (smp.pulseCount.toNat * 10 * 1000) smp.windowMs.toNat
  rw [freqOf, Config.freqDivider, BitVec.toNat_ofNat]
  exact Nat.mod_eq_of_lt (by omega)

/-! ### The transitions outside FAULT -/

section
variable {cfg : Config} {now : Time} {u : UnitState}

theorem commit_idle_start (hs : u.state = .idle) (hp : u.pending = .start) : commit cfg now u =
    { u with pending := .none, state := .starting, startOut := true, tState := now, startCount := u.startCount + 1 } := by
  simp only [commit, hs, hp, if_true]

theorem commit_idle_wait (hs : u.state = .idle) (hp : u.pending ≠ .start) : commit cfg now u = u := by
  simp only [commit, hs, if_neg hp]

theorem commit_stop (hs : u.state = .starting ∨ u.state = .running) (hp : u.pending = .stop) :
    commit cfg now u = commitStop now u := by
  rcases hs with hs | hs <;> simp only [commit, hs, hp, if_true]

theorem commit_starting_done (hs : u.state = .starting) (hp : u.pending ≠ .stop)
    (ht : timerDone now u.tState cfg.tStartDelay = true) :
    commit cfg now u = { u with state := .running, running := true } := by
  simp only [commit, hs, if_neg hp, if_pos ht]

theorem commit_starting_wait (hs : u.state = .starting) (hp : u.pending ≠ .stop)
    (ht : ¬ timerDone now u.tState cfg.tStartDelay = true) : commit cfg now u = u := by
  simp only [commit, hs, if_neg hp, if_neg ht]

theorem commit_running_wait (hs : u.state = .running) (hp : u.pending ≠ .stop) : commit cfg now u = u := by
  simp only [commit, hs, if_neg hp]

theorem commit_stopping_done (hs : u.state = .stopping) (ht : timerDone now u.tState cfg.tStopSettle = true) :
    commit cfg now u = { u with state := .idle, running := false } := by
  simp only [commit, hs, if_pos ht]

theorem commit_stopping_wait (hs : u.state = .stopping) (ht : ¬ timerDone now u.tState cfg.tStopSettle = true) :
    commit cfg now u = u := by
  simp only [commit, hs, if_neg ht]

/-! ### The fault exit -/

theorem faultExit_pulse_running (hp : u.pulse = true) (ht : ¬ timerDone now u.tState cfg.tResetPulse = true) :
    faultExit cfg now u = u := by
  rw [timerDone, decide_eq_true_iff] at ht
  rw [faultExit, if_pos hp, if_neg ht]

/-- The end of a pulse, OVL to be reset or not. -/
theorem faultExit_pulse_done (hp : u.pulse = true) (ht : timerDone now u.tState cfg.tResetPulse = true) :
    faultExit cfg now u =
      if ovlResettable u then
        { u with pulse := false, resetOut := false, faults := 0, state := .idle, tState := now }
      else { u with pulse := false, resetOut := false } := by
  rw [timerDone, decide_eq_true_iff] at ht
  rw [faultExit, if_pos hp, if_pos ht]
  rfl

theorem faultExit_reset (hq : u.pulse = false) (hp : u.pending = .reset) :
    faultExit cfg now u =
      if ovlResettable u then { u with pending := .none, pulse := true, resetOut := true, tState := now }
      else { u with pending := .none } := by
  simp only [faultExit, hq, hp]
  rfl

theorem faultExit_clear (hq : u.pulse = false) (hp : u.pending = .clear) :
    faultExit cfg now u =
      if latchedClear u then
        if u.faults &&& 1#5 = 0#5 then
          { u with pending := .none, faults := u.faults &&& 1#5, state := .idle, tState := now }
        else { u with pending := .none, faults := u.faults &&& 1#5 }
      else { u with pending := .none } := by
  simp only [faultExit, hq, hp]
  rfl

theorem faultExit_no_request (hq : u.pulse = false) (hr : u.pending ≠ .reset) (hc : u.pending ≠ .clear) :
    faultExit cfg now u = u := by
  simp only [faultExit, hq]
  cases hp : u.pending with
  | reset => exact absurd hp hr
  | clear => exact absurd hp hc
  | none | start | stop => rfl

/-- The fault exit leaves `start_out`, `running` and the start count. -/
theorem faultExit_drive (cfg : Config) (now : Time) (u : UnitState) :
    (faultExit cfg now u).startOut = u.startOut ∧ (faultExit cfg now u).running = u.running ∧
      (faultExit cfg now u).startCount = u.startCount := by
  have ho := faultExit_outcome cfg now u
  generalize faultExit cfg now u = w at ho
  cases ho <;> exact ⟨rfl, rfl, rfl⟩

end

/-! ### A unit after a TICK -/

section
variable {s t : State} {i : Chan} {v : UnitState}

theorem exec_tick_sys (hi : s.sys.initialized = true) (h : exec .tick s = .next t) : t.sys = (commCondition s).sys := by
  rw [exec_tick_next hi h]
  exact controlCycle_sys s

theorem exec_tick_commLost (hi : s.sys.initialized = true) (h : exec .tick s = .next t) :
    t.sys.commLost = cycleCommLost s := by
  rw [exec_tick_sys hi h]
  rfl

/-- After a TICK a unit is its own update, but for the pending request. -/
theorem exec_tick_cycleUnit (hi : s.sys.initialized = true) (h : exec .tick s = .next t) (i : Chan) :
    t.unit i = { cycleUnit s i with pending := (t.unit i).pending } := by
  rw [exec_tick_unit hi h]
  exact controlCycle_unit s i

/-- A unit that its own update leaves in IDLE or FAULT without a request is not stopped either. -/
theorem exec_tick_unit_eq {w : UnitState} (hi : s.sys.initialized = true) (h : exec .tick s = .next t)
    (hcycle : cycleUnit s i = w) (hp : w.pending = .none) (hs : w.state = .idle ∨ w.state = .fault) : t.unit i = w := by
  rw [exec_tick_unit hi h]
  rcases (controlCycle_stopped s i).cases with e | ⟨-, ⟨-, hstart, -⟩ | ⟨hmoving, -⟩⟩
  · rw [e, hcycle]
  · rw [hcycle, hp] at hstart
    cases hstart
  · rw [hcycle] at hmoving
    rcases hs with hs | hs <;> simp [hs] at hmoving

/-- The debounce records after a TICK are those detection set. -/
theorem Detected.exec_tick_debOf (d : Detected s i v) (hi : s.sys.initialized = true) (h : exec .tick s = .next t)
    (k : FaultClass) : (t.unit i).debOf k = v.debOf k := by
  obtain ⟨-, -, -, hdeb, -⟩ := d.kept
  rw [UnitState.debOf, exec_tick_cycleUnit hi h i, UnitState.debOf, ← hdeb]

/-- So is the latched set, outside FAULT. -/
theorem Detected.exec_tick_faults (d : Detected s i v) (hi : s.sys.initialized = true) (h : exec .tick s = .next t)
    (hs : (s.unit i).state ≠ .fault) : (t.unit i).faults = v.faults := by
  obtain ⟨-, -, -, -, -, -, -, -, -, -, hfaults⟩ := d.kept
  rw [exec_tick_cycleUnit hi h i, ← hfaults hs]

/-- A unit with a cause for it enters FAULT. -/
theorem Detected.enters (d : Detected s i v) (h : (s.unit i).state ≠ .fault)
    (hcause : v.faults ≠ 0#5 ∨ (s.unit i).state = .unknown) : cycleUnit s i = enterFault s.now v := by
  rw [d.update]
  exact if_pos (hcause.elim (fun hf => .inr ⟨hf, h⟩) .inl)

/-- A unit that holds no fault makes the transition of its state. -/
theorem Detected.commits (d : Detected s i v) (h : (s.unit i).state ≠ .unknown) (hf : v.faults = 0#5) :
    cycleUnit s i = commit s.cfg s.now v := by
  rw [d.update]
  exact if_neg (by simp [h, hf])

end

end Sys2Proof.Machine
end

section
/-!
The obligations of 40_unit_controller.md about the units in a TICK.
-/
namespace Sys2Proof.Machine

open Sys2Proof.Safety

/-- Settles O38: `sys` is what the communication condition leaves, and telemetry is what detection set (`Detected`). -/
theorem tickCommAndTelemetry : Obligations.TickCommAndTelemetry := by
  intro s t hi h
  have hsys := exec_tick_sys hi h
  refine ⟨by rw [hsys]; exact hi, by rw [hsys]; rfl, ?commLost, ?unit⟩
  case commLost =>
    rw [Bool.eq_iff_iff, decide_eq_true_iff, hsys]
    exact timerDone_iff ..
  case unit =>
    intro i smp
    obtain ⟨v, d⟩ := exists_detected s i
    obtain ⟨-, -, -, -, -, -, hpower, hfreq, hlocked, hcomm, -⟩ := d.kept
    rw [exec_tick_cycleUnit hi h i, exec_tick_commLost hi h]
    replace hfreq := hfreq.trans d.freqHz
    refine ⟨hpower.trans d.powerW, fun hw => ?_, fun hw => ?_, hlocked.trans d.locked, hcomm.trans d.commOk⟩
    · exact hfreq.trans (if_neg (not_not.mpr hw))
    · exact (congrArg BitVec.toNat (hfreq.trans (if_pos hw))).trans (freqOf_toNat _)

/-- Settles O39: detection (`Detected`), which the transition leaves but for the latched set in FAULT. -/
theorem tickLatchesRisesAndInjections : Obligations.TickLatchesRisesAndInjections := by
  intro s t i hi h u v smp raw
  obtain ⟨d, hd⟩ := exists_detected s i
  obtain ⟨-, -, -, -, hinj, hcount, -⟩ := hd.kept
  have hv := exec_tick_cycleUnit hi h i
  have hdeb : ∀ k, v.debOf k = d.debOf k := hd.exec_tick_debOf hi h
  have hrises : ∀ k, (!(u.debOf k).level && (v.debOf k).level) = rises u d k := fun k => by rw [hdeb, rises]
  have hraw : ∀ k, raw k = rawCondition k (cycleCommLost s) (selectedSample s i) u.state := by
    rintro (_ | _ | _ | _ | _)
    case comm => exact exec_tick_commLost hi h
    all_goals rfl
  have hwindow : ∀ k, windowOf s.cfg k = debWindow s.cfg k := by rintro (_ | _ | _ | _ | _) <;> rfl
  simp only [hrises]
  refine ⟨fun k => ?deb, ?inj, ?count, fun hs k => ?latched⟩
  case deb => rw [hdeb, hraw, hwindow, hd.deb]
  case inj => exact (congrArg UnitState.inj hv).trans (hinj.trans hd.inj)
  case count => exact (congrArg UnitState.faultCount hv).trans (hcount.trans hd.faultCount)
  case latched => rw [hd.exec_tick_faults hi h hs, hd.faults]

/-- Settles O40: such a unit takes `enterFault` (`Detected.enters`), and is not stopped (`exec_tick_unit_eq`). -/
theorem tickEntersFault : Obligations.TickEntersFault := by
  intro s t i hi h hs hcause
  obtain ⟨d, hd⟩ := exists_detected s i
  rw [hd.exec_tick_faults hi h hs] at hcause
  have hentered : t.unit i = enterFault s.now d := exec_tick_unit_eq hi h (hd.enters hs hcause) rfl (.inr rfl)
  rw [hentered]
  exact ⟨rfl, rfl, rfl, rfl, rfl, rfl, rfl, hd.amp, hd.startCount, hd.sim, hd.id⟩

/-- Settles O41: without a fault the unit makes the transition of its state (`Detected.commits`), one case a clause. -/
theorem tickCommitsLifecycle : Obligations.TickCommitsLifecycle := by
  intro s t i hi h hnone u v ran becomes stays
  obtain ⟨d, hd⟩ := exists_detected s i
  have hmoves : ∀ {w y x startOut running tState count}, u.state = y → y ≠ .fault ∧ y ≠ .unknown →
      commit s.cfg s.now d = w → w.state = x ∧ w.startOut = startOut ∧ w.running = running ∧ w.tState = tState ∧
        w.startCount = count ∧ w.resetOut = u.resetOut ∧ w.pulse = u.pulse →
      becomes x startOut running tState count := by
    rintro w y x startOut running tState count hs ⟨hf, hu⟩ rfl hw
    rw [← hs] at hf hu
    rw [hd.exec_tick_faults hi h hf] at hnone
    rw [← hd.commits hu hnone] at hw
    simp only [becomes, v]
    rwa [exec_tick_cycleUnit hi h i]
  have hstays : ∀ {y}, u.state = y → y ≠ .fault ∧ y ≠ .unknown → commit s.cfg s.now d = d → stays := fun hs hy e =>
    hmoves hs hy e ⟨hd.state, hd.startOut, hd.running, hd.tState, hd.startCount, hd.resetOut, hd.pulse⟩
  have hpending : ∀ {p : Pending}, u.pending ≠ p → d.pending ≠ p := fun hp => hd.pending.trans_ne hp
  have htimer : ∀ limit : Time, timerDone s.now d.tState limit = true ↔ limit.toNat ≤ ran := by
    rw [hd.tState]
    exact timerDone_iff _ _
  refine ⟨fun hs hp => ?start, fun hs hp => ?idle, fun hs hp => ?stopStarting, fun hs hp ht => ?started,
    fun hs hp ht => ?starting, fun hs hp => ?stopRunning, fun hs hp => ?running, fun hs ht => ?stopped,
    fun hs ht => ?stopping⟩
  case start =>
    exact hmoves hs (by decide) (commit_idle_start (hd.state.trans hs) (hd.pending.trans hp))
      ⟨rfl, rfl, hd.running, rfl, congrArg (· + 1) hd.startCount, hd.resetOut, hd.pulse⟩
  case idle => exact hstays hs (by decide) (commit_idle_wait (hd.state.trans hs) (hpending hp))
  case stopStarting =>
    exact hmoves hs (by decide) (commit_stop (.inl (hd.state.trans hs)) (hd.pending.trans hp))
      ⟨rfl, rfl, hd.running, rfl, hd.startCount, hd.resetOut, hd.pulse⟩
  case started =>
    exact hmoves hs (by decide) (commit_starting_done (hd.state.trans hs) (hpending hp) ((htimer _).mpr ht))
      ⟨rfl, hd.startOut, rfl, hd.tState, hd.startCount, hd.resetOut, hd.pulse⟩
  case starting =>
    exact hstays hs (by decide)
      (commit_starting_wait (hd.state.trans hs) (hpending hp) (mt (htimer _).mp (Nat.not_le.mpr ht)))
  case stopRunning =>
    exact hmoves hs (by decide) (commit_stop (.inr (hd.state.trans hs)) (hd.pending.trans hp))
      ⟨rfl, rfl, hd.running, rfl, hd.startCount, hd.resetOut, hd.pulse⟩
  case running => exact hstays hs (by decide) (commit_running_wait (hd.state.trans hs) (hpending hp))
  case stopped =>
    exact hmoves hs (by decide) (commit_stopping_done (hd.state.trans hs) ((htimer _).mpr ht))
      ⟨rfl, hd.startOut, rfl, hd.tState, hd.startCount, hd.resetOut, hd.pulse⟩
  case stopping =>
    exact hstays hs (by decide) (commit_stopping_wait (hd.state.trans hs) (mt (htimer _).mp (Nat.not_le.mpr ht)))

/-- Settles O42: a unit in FAULT takes the fault exit (`Detected.ofFault`), whose mask is the one detection latched; one case
a clause, and a unit whose request is consumed is not stopped (`exec_tick_unit_eq`). -/
theorem tickLeavesFaultByCommandOnly : Obligations.TickLeavesFaultByCommandOnly := by
  intro s t i hi h hs u v low quiet
  obtain ⟨d, hd⟩ := exists_detected s i
  have hexit := hd.ofFault hs
  have hfault : d.state = .fault := hd.state.trans hs
  have hpulse : ∀ {b}, u.pulse = b → d.pulse = b := hd.pulse.trans
  have hrequest : ∀ {p}, u.pending = p → d.pending = p := hd.pending.trans
  have hafter : ∀ {w}, faultExit s.cfg s.now d = w → v = { w with pending := v.pending } := by
    rintro _ rfl
    rw [← hexit]
    exact exec_tick_cycleUnit hi h i
  have hconsumed : ∀ {w}, faultExit s.cfg s.now d = w → w.pending = .none → w.state = .idle ∨ w.state = .fault → v = w :=
    fun e => exec_tick_unit_eq hi h (hexit.trans e)
  have hdeb : ∀ k, v.debOf k = d.debOf k := hd.exec_tick_debOf hi h
  have htimer : timerDone s.now d.tState s.cfg.tResetPulse = true ↔
      s.cfg.tResetPulse.toNat ≤ (s.now - u.tState).toNat := by
    rw [hd.tState]
    exact timerDone_iff ..
  have hovl : ovlResettable d = true ↔ d.faults = 1#5 ∧ low .ovl := by
    simp only [low, hdeb]
    exact ovlResettable_iff d
  have hclear : latchedClear d = true ↔ ∀ k, hasClass d.faults k = true → low k := by
    simp only [low, hdeb]
    exact latchedClear_iff d
  obtain ⟨hstartOut, hrunning, hstartCount⟩ := faultExit_drive s.cfg s.now d
  refine ⟨(congrArg UnitState.startOut (hafter rfl)).trans (hstartOut.trans hd.startOut),
    (congrArg UnitState.running (hafter rfl)).trans (hrunning.trans hd.running),
    (congrArg UnitState.startCount (hafter rfl)).trans (hstartCount.trans hd.startCount),
    d.faults, fun k => ?latched, fun hp ht hf hl => ?pulseDone, fun hp ht hn => ?pulseFailed, fun hp ht => ?pulseRuns,
    fun hp hr hf hl => ?resetStarts, fun hp hr hn => ?resetFails, fun hp hc hl => ?clears, fun hp hc hn => ?clearFails,
    fun hp hr hc => ?waits⟩
  case latched => rw [hd.faults, hdeb, rises]
  case pulseDone =>
    rw [hafter ((faultExit_pulse_done (hpulse hp) (htimer.mpr ht)).trans (if_pos (hovl.mpr ⟨hf, hl⟩)))]
    exact ⟨rfl, rfl, rfl, rfl, rfl⟩
  case pulseFailed =>
    rw [hafter ((faultExit_pulse_done (hpulse hp) (htimer.mpr ht)).trans (if_neg (mt hovl.mp hn)))]
    exact ⟨hfault, rfl, rfl, rfl, hd.tState⟩
  case pulseRuns =>
    rw [hafter (faultExit_pulse_running (hpulse hp) (mt htimer.mp (Nat.not_le.mpr ht)))]
    exact ⟨hfault, rfl, hpulse hp, hd.resetOut, hd.tState⟩
  case resetStarts =>
    rw [hconsumed ((faultExit_reset (hpulse hp) (hrequest hr)).trans (if_pos (hovl.mpr ⟨hf, hl⟩))) rfl (.inr hfault)]
    exact ⟨hfault, rfl, rfl, rfl, rfl, rfl⟩
  case resetFails =>
    simp only [quiet]
    rw [hconsumed ((faultExit_reset (hpulse hp) (hrequest hr)).trans (if_neg (mt hovl.mp hn))) rfl (.inr hfault)]
    exact ⟨hfault, rfl, rfl, hpulse hp, hd.resetOut, hd.tState⟩
  case clears =>
    have e := (faultExit_clear (cfg := s.cfg) (now := s.now) (hpulse hp) (hrequest hc)).trans (if_pos (hclear.mpr hl))
    by_cases hnone : d.faults &&& 1#5 = 0#5
    · rw [hconsumed (e.trans (if_pos hnone)) rfl (.inl rfl)]
      exact ⟨rfl, rfl, iff_of_true rfl hnone, .inl rfl, hpulse hp, hd.resetOut, fun _ => rfl, nofun⟩
    · have hstays : d.state ≠ .idle := by simp [hfault]
      rw [hconsumed (e.trans (if_neg hnone)) rfl (.inr hfault)]
      exact ⟨rfl, rfl, iff_of_false hstays hnone, .inr hfault, hpulse hp, hd.resetOut, fun hidle => absurd hidle hstays,
        fun _ => hd.tState⟩
  case clearFails =>
    obtain ⟨k, hk, hhigh⟩ := hn
    have hheld : ¬ latchedClear d = true := fun hok => hhigh (hclear.mp hok k hk)
    simp only [quiet]
    rw [hconsumed ((faultExit_clear (hpulse hp) (hrequest hc)).trans (if_neg hheld)) rfl (.inr hfault)]
    exact ⟨hfault, rfl, rfl, hpulse hp, hd.resetOut, hd.tState⟩
  case waits =>
    simp only [quiet]
    rw [hafter (faultExit_no_request (hpulse hp) (hd.pending.trans_ne hr) (hd.pending.trans_ne hc))]
    exact ⟨hfault, rfl, hpulse hp, hd.resetOut, hd.tState⟩

end Sys2Proof.Machine
end

section
/-!
SUPPORT. The arbiter (41_resource_coordinator.md R85, R86): the duty of a setpoint, and the actuator value under each policy in
terms of the running channels.
-/
namespace Sys2Proof.Machine

/-! ### The percent-to-duty mapping -/

/-- A setpoint of at most 100 percent needs no clamp. -/
theorem percent_le_dutyMax (cfg : Config) {a : Nat} (ha : a ≤ 100) :
    a * cfg.dutyMax.toNat / 100 ≤ cfg.dutyMax.toNat :=
  Nat.div_le_of_le_mul (Nat.mul_le_mul_right _ ha)

theorem dutyOf_toNat (cfg : Config) {a : Nat} (ha : a ≤ 100) :
    (dutyOf cfg a).toNat = a * cfg.dutyMax.toNat / 100 := by
  have hle := percent_le_dutyMax cfg ha
  rw [dutyOf, min_eq_left hle, BitVec.toNat_ofNat, Nat.mod_eq_of_lt (hle.trans_lt cfg.dutyMax.isLt)]

/-! ### The running channels -/

theorem mem_runningChans {s : State} {j : Chan} : j ∈ runningChans s ↔ (s.unit j).running = true := by
  simp [runningChans]

theorem runningChans_ne_nil {s : State} {j : Chan} (hj : (s.unit j).running = true) : runningChans s ≠ [] :=
  List.ne_nil_of_mem (mem_runningChans.mpr hj)

/-- A sum over the running channels as a sum over all channels. -/
theorem sum_map_runningChans (s : State) (f : Chan → Nat) :
    ((runningChans s).map f).sum = ∑ x : Chan, if (s.unit x).running then f x else 0 := by
  have hchans : List.finRange 4 = chans := rfl
  rw [Fin.sum_univ_def, List.sum_map_ite, hchans]
  simp [runningChans]

theorem length_runningChans (s : State) :
    (runningChans s).length = ∑ x : Chan, if (s.unit x).running then 1 else 0 := by
  rw [← sum_map_runningChans]
  simp

/-! ### The arbiter, policy by policy -/

section
variable {s : State} {j : Chan}

/-- MOST_RECENT: the first running channel in the recency order. -/
theorem arbitrate_mostRecent {before after : List Chan} (hpolicy : s.cfg.arbPolicy = .mostRecent)
    (horder : s.rc.order = before ++ j :: after) (hbefore : ∀ x ∈ before, (s.unit x).running = false)
    (hj : (s.unit j).running = true) : arbitrate s = dutyOf s.cfg (ampOf s j) := by
  have hfind : s.rc.order.find? (fun x => (s.unit x).running) = some j :=
    List.find?_eq_some_iff_append.mpr ⟨hj, before, after, horder, by simpa using hbefore⟩
  simp only [arbitrate, runningChans_ne_nil hj, if_false, hpolicy, hfind]

/-- The running maximum of a list is its greatest element. -/
theorem foldl_max_eq_of_greatest {l : List Nat} {m : Nat} (hm : m ∈ l) (hle : ∀ x ∈ l, x ≤ m) :
    l.foldl max 0 = m := by
  have h : (0 :: l).max? = some m :=
    List.max?_eq_some_iff.mpr ⟨List.mem_cons_of_mem 0 hm, by simpa using hle⟩
  exact Option.some.inj (List.max?_cons'.symm.trans h)

/-- MAXIMUM: a running channel of the largest setpoint. -/
theorem arbitrate_maximum (hpolicy : s.cfg.arbPolicy = .maximum) (hj : (s.unit j).running = true)
    (hmax : ∀ x : Chan, (s.unit x).running = true → ampOf s x ≤ ampOf s j) :
    arbitrate s = dutyOf s.cfg (ampOf s j) := by
  have hfold : ((runningChans s).map (ampOf s)).foldl max 0 = ampOf s j := by
    refine foldl_max_eq_of_greatest (List.mem_map_of_mem (mem_runningChans.mpr hj)) fun a ha => ?_
    obtain ⟨x, hx, rfl⟩ := List.mem_map.mp ha
    exact hmax x (mem_runningChans.mp hx)
  simp only [arbitrate, runningChans_ne_nil hj, if_false, hpolicy, hfold]

/-- AVERAGE: the floor of the mean of the running setpoints. -/
theorem arbitrate_average (hpolicy : s.cfg.arbPolicy = .average) (hj : (s.unit j).running = true) :
    arbitrate s = dutyOf s.cfg ((∑ x : Chan, if (s.unit x).running then ampOf s x else 0) /
      (∑ x : Chan, if (s.unit x).running then 1 else 0)) := by
  rw [← sum_map_runningChans, ← length_runningChans]
  simp only [arbitrate, runningChans_ne_nil hj, if_false, hpolicy]

end

theorem exec_tick_rc {s t : State} (hi : s.sys.initialized = true) (h : exec .tick s = .next t) :
    t.rc = (controlCycle s).rc := by
  rw [exec_tick_next hi h]

/-- The actuator after a TICK is what the arbiter computes from the state the TICK leaves. -/
theorem exec_tick_duty {s t : State} (hi : s.sys.initialized = true) (h : exec .tick s = .next t) :
    t.rc.duty = arbitrate t := by
  rw [exec_tick_next hi h]
  exact controlCycle_duty s

end Sys2Proof.Machine
end

section
/-!
SUPPORT. EMERGENCY_STOP is left by INIT and a Reset alone (41_resource_coordinator.md R87, 42_master_coordinator.md R96): the
word a step runs, and the MC's state under every other command.
-/
namespace Sys2Proof.Machine

open Sys2Proof.Safety

/-- A step that takes a transaction and answers a next state has a legal configuration. -/
theorem legal_of_step_next {s t : State} {x : Transaction} {rest : List Transaction} (hport : s.port = x :: rest)
    (h : step s = .next t) : s.cfg.legal = true := by
  by_contra hlegal
  rw [step_of_port_cons hport, runTransaction_of_illegal (Bool.eq_false_iff.mpr hlegal)] at h
  cases h

/-- A command word runs the command it encodes, or is rejected with the result word alone written. -/
theorem runDecoded_decode_next {diag : Bool} {w : Word} {s t : State} (h : runDecoded (decode diag w) s = .next t) :
    Rejected s t ∨ ∃ i, encode i = w ∧ exec i s = .next t := by
  cases hdecode : decode diag w with
  | instr i =>
    rw [hdecode] at h
    exact .inr ⟨i, encodeOfDecode _ _ _ hdecode, h⟩
  | illegalOpcode | reservedField =>
    rw [hdecode] at h
    exact .inl ⟨_, by decide, (reject_eq_next _ _ _).mp h⟩

/-- The master update does not leave EMERGENCY_STOP. -/
theorem controlCycle_keeps_emergencyStop {s : State} (hes : s.m.state = .emergencyStop) :
    (controlCycle s).m.state = .emergencyStop := by
  have hbefore : (beforeMaster s).m.state = .emergencyStop := by rw [beforeMaster_m]; exact hes
  rw [controlCycle_eq, masterUpdate, if_pos hbefore]
  exact hbefore

/-- An accepted command other than INIT keeps EMERGENCY_STOP: a start path or a sequence command is not accepted there, nor
is REARM, and REPORT_FAULT only records. -/
theorem Accepted.keeps_emergencyStop {i : Instr} {s x : State} {v : BitVec 16} (ha : Accepted i s v x) (hinit : i ≠ .init)
    (hes : s.m.state = .emergencyStop) : x.m.state = .emergencyStop := by
  cases ha with
  | init => exact absurd rfl hinit
  | tick => exact controlCycle_keeps_emergencyStop hes
  | coordStart _ _ _ _ hgate => exact absurd hes (startGate_eq_none.mp hgate).1
  | coordStop | unitStop => rw [stopChannels_eq]; exact hes
  | reportIsolated _ _ _ _ _ _ _ hm => exact absurd hes hm
  | rearm _ _ hm => rw [hes] at hm; cases hm
  | estop => rfl
  | _ => exact hes

/-- So does every command other than INIT, accepted or rejected. -/
theorem exec_keeps_emergencyStop {i : Instr} {s t : State} (h : exec i s = .next t) (hinit : i ≠ .init)
    (hes : s.m.state = .emergencyStop) : t.m.state = .emergencyStop :=
  exec_keeps (P := fun s t => s.m.state = .emergencyStop → t.m.state = .emergencyStop) (fun _ _ => id)
    (fun _ _ ha _ => ha.keeps_emergencyStop hinit) h hes

/-- A step that runs neither INIT nor a Reset keeps EMERGENCY_STOP. -/
theorem step_keeps_emergencyStop {s t : State} (h : step s = .next t) (hes : s.m.state = .emergencyStop)
    (hinit : ∀ (now : Time) (inp : Sample) (rest : List Transaction), s.port ≠ .cmd (encode .init) now inp :: rest)
    (hreset : ∀ rest : List Transaction, s.port ≠ .reset :: rest) : t.m.state = .emergencyStop := by
  match hport : s.port with
  | [] =>
    rw [step_of_port_nil hport] at h
    cases h
    exact hes
  | .reset :: rest => exact absurd hport (hreset rest)
  | .cmd w now inp :: rest =>
    rw [step_cmd (legal_of_step_next hport h) hport] at h
    rcases runDecoded_decode_next h with ⟨c, -, rfl⟩ | ⟨i, rfl, hexec⟩
    · exact hes
    · refine exec_keeps_emergencyStop hexec ?_ hes
      rintro rfl
      exact hinit now inp rest hport

/-- A unit at rest does not drive its start output. -/
theorem startOut_of_atRest {i : Chan} {u : UnitState} (h : UnitInv i u) (hr : AtRest u) : u.startOut = false := by
  obtain ⟨-, -, -, hstart, -⟩ := h
  obtain ⟨hs, -⟩ := hr
  refine Bool.eq_false_iff.mpr (mt hstart.mp ?_)
  rcases hs with hs | hs | hs <;> simp [hs]

end Sys2Proof.Machine
end

section
/-!
The obligations of 41_resource_coordinator.md.
-/
namespace Sys2Proof.Machine

open Sys2Proof.Safety

/-- Settles O13: the step stays in EMERGENCY_STOP and keeps the invariant, which there asks for actuator 0 and units at
rest. -/
theorem emergencyStopIsTerminal : Obligations.EmergencyStopIsTerminal := by
  intro s t hinv hes hstep hinit hreset
  have hes' := step_keeps_emergencyStop hstep hes hinit hreset
  obtain ⟨hunits, -, -, -, hestop⟩ := stepKeepsInvariant s t hinv hstep
  obtain ⟨hduty, hrest⟩ := hestop hes'
  exact ⟨hes', hduty, fun j =>
    ⟨running_of_atRest (hunits j) (hrest j), startOut_of_atRest (hunits j) (hrest j)⟩⟩

/-- Settles O27: the broadcast is accepted once initialised, and the setpoint it stores is the clamped operand. -/
theorem broadcastSetsEverySetpoint : Obligations.BroadcastSetsEverySetpoint := by
  intro s dat hinit
  have hamp := amp16_toNat dat
  refine ⟨amp16 dat, fun hlo => ?_, fun hhi => ?_, fun hlo hhi => ?_, (Accepted.ampBcast s dat hinit).exec_returning⟩
  · exact BitVec.eq_of_toNat_eq (show (amp16 dat).toNat = 20 by omega)
  · exact BitVec.eq_of_toNat_eq (show (amp16 dat).toNat = 100 by omega)
  · omega

/-- Settles O43: the actuator is what the arbiter computes after the TICK (`exec_tick_duty`), policy by policy. -/
theorem tickDrivesActuator : Obligations.TickDrivesActuator := by
  intro s t hi h
  have hcfg : t.cfg = s.cfg := (exec_samePorts h).1
  have horder : t.rc.order = s.rc.order := by rw [exec_tick_rc hi h, controlCycle_order]
  have hbcast : t.rc.bcast = s.rc.bcast := by rw [exec_tick_rc hi h, controlCycle_bcast]
  rw [exec_tick_duty hi h, ← hcfg]
  refine ⟨horder, hbcast, arbitrate_none_running, fun j before after hpolicy hsplit => ?mostRecent,
    fun j => arbitrate_maximum, fun j => arbitrate_average⟩
  case mostRecent => exact arbitrate_mostRecent hpolicy (horder.trans hsplit)

/-- Settles O44: up to 100 percent the clamp does nothing; the four numbers are computed. -/
theorem dutyIsLinearPercent : Obligations.DutyIsLinearPercent := by
  refine ⟨fun cfg a _ ha => ⟨dutyOf_toNat cfg ha, percent_le_dutyMax cfg ha⟩, fun cfg hmax => ?_⟩
  simp [dutyOf, hmax]

end Sys2Proof.Machine
end

section
/-!
SUPPORT. The checks of the master commands that fail (42_master_coordinator.md R88, R90 to R94, R98): the start gate, and the
conditions on the MC and on the units in the terms of Sys2Proof/Safety.lean.
-/
namespace Sys2Proof.Machine

open Sys2Proof.Safety

/-! ### The start gate -/

theorem startGate_of_lockedOut {m : McState} (h : LockedOut m) : startGate m = some .lockedOut := if_pos h

theorem startGate_of_inhibited {m : McState} (h : ¬ LockedOut m) (hinhibit : m.inhibit = true) :
    startGate m = some .inhibited :=
  (if_neg h).trans (if_pos hinhibit)

theorem startGate_of_open {m : McState} (h : ¬ LockedOut m) (hinhibit : m.inhibit = false) : startGate m = none :=
  (if_neg h).trans (if_neg (by simp [hinhibit]))

/-- In IDLE and in RUNNING the gate objects to nothing but the inhibit. -/
theorem startGate_of_state {m : McState} (h : m.state = .idle ∨ m.state = .running) (hinhibit : m.inhibit = false) :
    startGate m = none := by
  refine startGate_of_open ?_ hinhibit
  rcases h with h | h <;> simp [h]

theorem ifStartAllowed_fail {s : State} {k : Answer} {c : ResultCode} (h : startGate s.m = some c) :
    ifStartAllowed s k = s.reject c := by
  rw [ifStartAllowed, h]

/-- The operands 1 to 3 of FORCE_STATE name the states the gate guards. -/
theorem forcedRunning_ofOperand {d : BitVec 16} (hlo : 1 ≤ d.toNat) (hhi : d.toNat ≤ 3) :
    forcedRunning (UState.ofOperand d) = true := by
  have hnumber := unitStateNumber_ofOperand d
  cases hx : UState.ofOperand d with
  | starting | running | stopping => rfl
  | idle | fault | unknown =>
    simp only [hx, unitStateNumber] at hnumber
    omega

/-- The commands that make the start gate their first check of the state: the four start paths (R88). -/
def startPath : Instr → Bool
  | .start _ | .coordStart _ | .unitStart _ => true
  | .forceState _ d => forcedRunning (UState.ofOperand d)
  | .nop | .init | .tick | .readReg _ | .stop _ | .setAmp _ _ | .resetOvl _ | .clearFaults _ | .getStatus _ | .isSafe _
  | .ampBcast _ | .confirm _ | .coordStop _ | .unitStop _ | .reportFault _ _ | .estop | .setInhibit _ | .rearm
  | .setSim _ _ | .injectFault _ _ => false

/-- A start path with valid operands answers what the gate objects. -/
theorem exec_startPath_of_gate {s : State} {i : Instr} {c : ResultCode} (hpath : startPath i = true)
    (hwf : i.wellFormed = true) (hdiag : diagnostic i = true → s.cfg.diagPresent = true)
    (hinit : s.sys.initialized = true) (hgate : startGate s.m = some c) : exec i s = s.reject c := by
  obtain ⟨hindex, hvalue⟩ := Bool.and_eq_true_iff.mp hwf
  cases i with
  | start idx | unitStart idx =>
    obtain ⟨ch, hch⟩ := Option.isSome_iff_exists.mp hindex
    exact (ifInit_onChannel hinit hch _).trans (ifStartAllowed_fail hgate)
  | coordStart msk => exact (ifInit_pass hinit).trans ((ifValue_pass hvalue).trans (ifStartAllowed_fail hgate))
  | forceState idx d =>
    obtain ⟨ch, hch⟩ := Option.isSome_iff_exists.mp hindex
    exact (ifDiag_onChannel (hdiag rfl) hinit hch _).trans ((ifValue_pass hvalue).trans
      ((if_pos hpath).trans (ifStartAllowed_fail hgate)))
  | _ => cases hpath

/-! ### Conditions on the MC and on the units -/

theorem all_chans_iff (p : Chan → Bool) : chans.all p = true ↔ ∀ j, p j = true := by
  simp [List.all_eq_true]

/-- The condition of COORD_START on the units (R90). -/
theorem coordStart_units_iff (s : State) (msk : ChanMask) :
    (chans.all fun i => !(hasChan msk i) || uStartOk (s.unit i)) = true ↔
      ∀ j, hasChan msk j = true → CanStart (s.unit j) := by
  rw [all_chans_iff]
  refine forall_congr' fun j => ?_
  rw [← uStartOk_iff]
  cases hasChan msk j <;> simp

theorem rearmable_iff (u : UnitState) :
    rearmable u = true ↔ u.state = .idle ∧ u.faults = 0#5 ∧ u.pending = .none := by
  simp [rearmable, and_assoc]

/-- Two checks of the state, one of which fails. -/
theorem ifState_ifState_fail {s : State} {k : Answer} {b c : Bool} {P Q : Prop} (hb : b = true ↔ P) (hc : c = true ↔ Q)
    (h : ¬ (P ∧ Q)) : ifState s b (ifState s c k) = s.reject .badState := by
  by_cases hP : P
  · exact (ifState_pass (hb.mpr hP)).trans (ifState_fail hc fun hQ => h ⟨hP, hQ⟩)
  · exact ifState_fail hb hP

end Sys2Proof.Machine
end

section
/-!
The obligations of 42_master_coordinator.md about rejections.
-/
namespace Sys2Proof.Machine

open Sys2Proof.Safety

/-- Settles O19: each of the four is a start path with valid operands, and answers what the gate objects. -/
theorem startGateOnEveryStartPath : Obligations.StartGateOnEveryStartPath := by
  intro s ch msk d i hinit hi
  have hindex : (chanOf (idxOf ch)).isSome = true := by rw [chanOf_idxOf]; rfl
  have hpath : startPath i = true ∧ i.wellFormed = true ∧ (diagnostic i = true → s.cfg.diagPresent = true) := by
    rcases hi with rfl | ⟨rfl, hmsk⟩ | rfl | ⟨rfl, hlo, hhi, hdiag⟩
    · exact ⟨rfl, Bool.and_eq_true_iff.mpr ⟨hindex, rfl⟩, nofun⟩
    · exact ⟨rfl, Bool.and_eq_true_iff.mpr ⟨rfl, decide_eq_true hmsk⟩, nofun⟩
    · exact ⟨rfl, Bool.and_eq_true_iff.mpr ⟨hindex, rfl⟩, nofun⟩
    · have hvalue : state3Valid d = true := decide_eq_true (by omega)
      exact ⟨forcedRunning_ofOperand hlo hhi, Bool.and_eq_true_iff.mpr ⟨hindex, hvalue⟩, fun _ => hdiag⟩
  obtain ⟨hpath, hwf, hdiag⟩ := hpath
  exact ⟨fun h => exec_startPath_of_gate hpath hwf hdiag hinit (startGate_of_lockedOut h),
    fun h hinhibit => exec_startPath_of_gate hpath hwf hdiag hinit (startGate_of_inhibited h hinhibit),
    startGate_of_open⟩

/-- Settles O21: past the checks before it, a check of the MC's state or of the units fails. -/
theorem masterCommandsBadState : Obligations.MasterCommandsBadState := by
  intro s ch msk hinit
  refine ⟨fun hmsk hgate h => ?coordStart, fun h => ?confirm, fun hmsk hrunning hstarting => ?coordStop,
    fun hgate h => ?unitStart, fun h => ?unitStop, fun h => ?rearm⟩
  case coordStart =>
    refine (ifInit_pass hinit).trans ((ifValue_pass (decide_eq_true hmsk)).trans ((ifStartAllowed_pass hgate).trans
      (ifState_ifState_fail decide_eq_true_iff (coordStart_units_iff s msk) ?_)))
    rintro ⟨hidle, hunits⟩
    rcases h with h | ⟨j, hj, hstart⟩
    · exact h hidle
    · exact hstart (hunits j hj)
  case confirm =>
    refine (ifInit_onChannel hinit (chanOf_idxOf ch) _).trans (ifState_fail (P := s.m.state = .coordinatedStart ∧
      hasChan s.m.active ch = true ∧ (s.unit ch).state = .running) (by simp [and_assoc]) ?_)
    rintro ⟨hstarting, hactive, hrunning⟩
    rcases h with h | h | h
    · exact h hstarting
    · simp [h] at hactive
    · exact h hrunning
  case coordStop =>
    exact (ifInit_pass hinit).trans ((ifValue_pass (decide_eq_true hmsk)).trans
      (ifState_fail (P := s.m.state = .running ∨ s.m.state = .coordinatedStart) (by simp)
        (not_or.mpr ⟨hrunning, hstarting⟩)))
  case unitStart =>
    exact (ifInit_onChannel hinit (chanOf_idxOf ch) _).trans ((ifStartAllowed_pass hgate).trans
      (ifState_ifState_fail decide_eq_true_iff (uStartOk_iff _) (not_and_or.mpr h)))
  case unitStop => exact (ifInit_onChannel hinit (chanOf_idxOf ch) _).trans (ifState_fail decide_eq_true_iff h)
  case rearm =>
    refine (ifInit_pass hinit).trans (ifState_ifState_fail decide_eq_true_iff (all_chans_iff _) ?_)
    rintro ⟨hisolated, hunits⟩
    rcases h with h | ⟨j, hj⟩
    · exact h hisolated
    · obtain ⟨hidle, hfaults, hpending⟩ := (rearmable_iff _).mp (hunits j)
      rcases hj with hj | hj | hj
      · exact hj hidle
      · exact hj hfaults
      · exact hj hpending

end Sys2Proof.Machine
end

section
/-!
SUPPORT. The operands and the effects of the master commands in the terms of their statements (42_master_coordinator.md R90 to
R98).
-/
namespace Sys2Proof.Machine

open Sys2Proof.Safety

/-- A channel joins `stop_wait` if it is in the set, moves, and is not there already (R92). -/
theorem hasChan_stopAdded (msk : ChanMask) (s : State) (j : Chan) : hasChan (stopAdded msk s) j = true ↔
    hasChan msk j = true ∧ hasChan s.m.stopWait j = false ∧ Moving (s.unit j) := by
  simp [stopAdded, hasChan_chanSet, Moving, or_assoc, and_assoc]

/-- The channels waited for after a stop of the set. -/
theorem hasChan_stopWait_or_stopAdded (msk : ChanMask) (s : State) (j : Chan) :
    hasChan (s.m.stopWait ||| stopAdded msk s) j = true ↔
      hasChan s.m.stopWait j = true ∨ (hasChan msk j = true ∧ Moving (s.unit j)) := by
  rw [hasChan_or, Bool.or_eq_true, hasChan_stopAdded]
  cases hasChan s.m.stopWait j <;> simp

/-- No channel joins exactly if `stop_wait` stays as it is. -/
theorem stopAdded_eq_zero_iff (msk : ChanMask) (s : State) :
    stopAdded msk s = 0#4 ↔ s.m.stopWait ||| stopAdded msk s = s.m.stopWait := by
  refine ⟨fun h => by simp [h], fun h => (chanMask_eq_zero_iff _).mpr fun j => Bool.eq_false_iff.mpr fun hj => ?_⟩
  obtain ⟨-, hnew, -⟩ := (hasChan_stopAdded msk s j).mp hj
  have hold : hasChan s.m.stopWait j = true := by rw [← h, hasChan_or, hj, Bool.or_true]
  simp [hnew] at hold

/-- The body of COORD_STOP, its timer in terms of the new `stop_wait`. -/
theorem stopChannels_eq_wait (msk : ChanMask) (s : State) :
    stopChannels msk s =
      let wait := s.m.stopWait ||| stopAdded msk s
      { s with
        u := perChan fun j => if hasChan msk j then uStop (s.unit j) else s.unit j
        m := { s.m with
          active := s.m.active &&& ~~~msk
          confirmed := s.m.confirmed &&& ~~~msk
          stopWait := wait
          tStopSeq := if wait = s.m.stopWait then s.m.tStopSeq else s.now } } := by
  simp only [stopChannels_eq, ne_eq, ite_not, stopAdded_eq_zero_iff]

/-- A fault mask as an operand names itself (R55). -/
theorem fmask5_setWidth (f : FaultMask) : fmask5 (f.setWidth 16) = f := by
  apply BitVec.eq_of_toNat_eq
  have := f.isLt
  simp only [fmask5, BitVec.extractLsb'_toNat, BitVec.toNat_setWidth, Nat.shiftRight_zero]
  omega

/-- And it is valid unless it is empty. -/
theorem fmask5Valid_setWidth {f : FaultMask} (h : f ≠ 0#5) : fmask5Valid (f.setWidth 16) = true := by
  have hhigh : (f.setWidth 16).extractLsb' 5 11 = 0#11 := by
    apply BitVec.eq_of_toNat_eq
    have := f.isLt
    simp only [BitVec.extractLsb'_toNat, BitVec.toNat_setWidth, Nat.shiftRight_eq_div_pow, BitVec.toNat_ofNat]
    omega
  have hlow : (f.setWidth 16).extractLsb' 0 5 ≠ 0#5 := by
    have hf : (f.setWidth 16).extractLsb' 0 5 = f := fmask5_setWidth f
    rwa [hf]
  rw [fmask5Valid, decide_eq_true hhigh, decide_eq_true hlow, Bool.and_self]

/-- A truth value as an operand is valid, and names itself (R55). -/
theorem bool1_ite (b : Bool) : bool1Valid (if b then 1 else 0) = true ∧ bool1 (if b then 1 else 0) = b := by
  cases b <;> decide

end Sys2Proof.Machine
end

section
/-!
The obligations of 42_master_coordinator.md about the effects of the master commands.
-/
namespace Sys2Proof.Machine

open Sys2Proof.Safety

/-- Settles O28: the command is accepted, and UStart of a unit that can start latches the start. -/
theorem coordStartBeginsSequence : Obligations.CoordStartBeginsSequence := by
  intro s msk hinit hmsk hidle hinhibit hunits
  have hok : ∀ j, hasChan msk j = true → uStartOk (s.unit j) = true := fun j hj => (uStartOk_iff _).mpr (hunits j hj)
  have hstarted : ∀ j, (if hasChan msk j then uStart (s.unit j) else s.unit j) =
      if hasChan msk j then { s.unit j with pending := .start } else s.unit j := by
    intro j
    split
    · next hj => exact uStart_of_ok (hok j hj)
    · rfl
  rw [(Accepted.coordStart s msk hinit (decide_eq_true hmsk) (startGate_of_state (.inl hidle) hinhibit) hidle
    hok).exec_returning]
  simp only [hstarted]

/-- Settles O29: the command is accepted, with exactly this effect. -/
theorem confirmSetsBit : Obligations.ConfirmSetsBit := by
  intro s i hinit hstarting hactive hrunning
  exact (Accepted.confirm s _ i hinit (chanOf_idxOf i) hstarting hactive hrunning).exec_returning

/-- Settles O30: both commands are accepted and run the same body, whose new `stop_wait` is the old one with the moving
channels of the set. -/
theorem stopSequenceStopsChannels : Obligations.StopSequenceStopsChannels := by
  intro s i msk hinit hi
  have hstop : Accepted i s 0 (stopChannels msk s) := by
    rcases hi with ⟨rfl, hmsk, hstate⟩ | ⟨ch, rfl, rfl, hrunning⟩
    · exact .coordStop s msk hinit (decide_eq_true hmsk) hstate
    · exact .unitStop s _ ch hinit (chanOf_idxOf ch) hrunning
  refine ⟨s.m.stopWait ||| stopAdded msk s, hasChan_stopWait_or_stopAdded msk s, ?_⟩
  rw [hstop.exec_returning, stopChannels_eq_wait]

/-- Settles O31: the command is accepted, and UStart of the unit latches the start. -/
theorem unitStartAddsChannel : Obligations.UnitStartAddsChannel := by
  intro s i hinit hrunning hinhibit hstart
  have hok : uStartOk (s.unit i) = true := (uStartOk_iff _).mpr hstart
  rw [(Accepted.unitStart s _ i hinit (chanOf_idxOf i) (startGate_of_state (.inr hrunning) hinhibit) hrunning
    hok).exec_returning, State.onUnit, uStart_of_ok hok]
  rfl

/-- Settles O32: the report is accepted in every MC state, and is recorded or isolates. -/
theorem reportFaultIsolates : Obligations.ReportFaultIsolates := by
  intro s i f hinit hf
  have hvalid := fmask5Valid_setWidth hf
  refine ⟨fun hes => ?recorded, fun hes => ?isolated⟩
  case recorded =>
    rw [(Accepted.reportRecorded s _ _ i hinit (chanOf_idxOf i) hvalid hes).exec_returning, fmask5_setWidth]
    rfl
  case isolated =>
    rw [(Accepted.reportIsolated s _ _ i hinit (chanOf_idxOf i) hvalid hes).exec_returning, fmask5_setWidth, isolate_eq]
    rfl

/-- Settles O34: both commands are accepted, with exactly these effects. -/
theorem setInhibitAndRearmComplete : Obligations.SetInhibitAndRearmComplete := by
  intro s hinit
  refine ⟨fun b => ?inhibit, fun hisolated hunits => ?rearm⟩
  case inhibit =>
    obtain ⟨hvalid, hvalue⟩ := bool1_ite b
    rw [(Accepted.setInhibit s _ hinit hvalid).exec_returning, hvalue]
  case rearm =>
    exact (Accepted.rearm s hinit hisolated fun j => (rearmable_iff _).mpr (hunits j)).exec_returning

end Sys2Proof.Machine
end

section
/-!
SUPPORT. The MC in a TICK (42_master_coordinator.md R99): the state the master update starts from, read off the state the TICK
leaves, and the ends of the update with their conditions.
-/
namespace Sys2Proof.Machine

open Sys2Proof.Safety

/-! ### From the state a TICK leaves to the state its master update starts from -/

section
variable {s t : State}

theorem exec_tick_state (hi : s.sys.initialized = true) (h : exec .tick s = .next t) (j : Chan) :
    (t.unit j).state = (cycleUnit s j).state := by
  rw [exec_tick_cycleUnit hi h j]

theorem exec_tick_latched (hi : s.sys.initialized = true) (h : exec .tick s = .next t) (j : Chan) :
    (t.unit j).faults = (cycleUnit s j).faults := by
  rw [exec_tick_cycleUnit hi h j]

/-- The master update sees the new faults that the units hold after the TICK. -/
theorem beforeMaster_newlyFaulted_iff (hi : s.sys.initialized = true) (h : exec .tick s = .next t) (j : Chan) :
    NewlyFaulted (beforeMaster s).m j ((beforeMaster s).unit j) ↔ NewlyFaulted s.m j (t.unit j) := by
  rw [NewlyFaulted, NewlyFaulted, beforeMaster_m, beforeMaster_unit, exec_tick_state hi h]

/-- In EMERGENCY_STOP a TICK leaves the MC. -/
theorem exec_tick_m_of_emergencyStop (hi : s.sys.initialized = true) (h : exec .tick s = .next t)
    (he : s.m.state = .emergencyStop) : t.m = s.m := by
  rw [← beforeMaster_m s] at he
  rw [exec_tick_m hi h, controlCycle_eq, masterUpdate, if_pos he, beforeMaster_m]

/-- So does one in FAULT_ISOLATION that finds no new fault. -/
theorem exec_tick_m_of_faultIsolation (hi : s.sys.initialized = true) (h : exec .tick s = .next t)
    (hf : s.m.state = .faultIsolation) (hn : ∀ j, ¬ NewlyFaulted s.m j (t.unit j)) : t.m = s.m := by
  rw [← beforeMaster_m s] at hf
  rw [exec_tick_m hi h, controlCycle_eq,
    masterUpdate_quiet _ fun j => mt (beforeMaster_newlyFaulted_iff hi h j).mp (hn j), if_pos (.inr hf), beforeMaster_m]

/-- A TICK that finds a new fault outside EMERGENCY_STOP ends with the fault polling. -/
theorem exec_tick_polled (hi : s.sys.initialized = true) (h : exec .tick s = .next t) (he : s.m.state ≠ .emergencyStop)
    (hn : ∃ j, NewlyFaulted s.m j (t.unit j)) :
    ∃ p, Polled (beforeMaster s) [3, 2, 1, 0] p ∧ t.m = p.m ∧ ∀ j, t.unit j = p.unit j := by
  have hcycle : controlCycle s = chans.foldl pollFault (beforeMaster s) := by
    obtain ⟨i, hnew⟩ := hn
    rw [← beforeMaster_m s] at he
    exact masterUpdate_fault _ ⟨i, (beforeMaster_newlyFaulted_iff hi h i).mpr hnew⟩ he
  refine ⟨_, polled_all _, ?_, fun j => ?_⟩
  · rw [exec_tick_m hi h, hcycle]
  · rw [exec_tick_unit hi h, hcycle]

end

/-- A unit that a stop leaves as it is cannot be stopped, or has its stop latched. -/
theorem stopped_of_uStop_eq {u : UnitState} (h : uStop u = u) : ¬ CanStop u ∨ u.pending = .stop := by
  by_cases hcan : CanStop u
  · right
    have hok := (uStopOk_iff u).mpr hcan
    by_cases hs : u.state = .idle
    · rw [uStop_of_idle hok hs] at h
      rcases hcan with ⟨hm, -⟩ | ⟨-, hp⟩
      · simp [hs] at hm
      · rw [← h] at hp
        cases hp
    · rw [← h, uStop_of_not_idle hok hs]
  · exact .inl hcan

/-! ### The conditions of the sequence -/

section
variable {m : McState}

theorem sequenceDone_iff : sequenceDone m = true ↔
    (m.state = .coordinatedStart ∨ m.state = .running) ∧ m.active = 0#4 ∧ m.stopWait = 0#4 := by
  simp only [sequenceDone, Bool.and_eq_true, Bool.or_eq_true, decide_eq_true_eq, and_assoc]

/-- Outside EMERGENCY_STOP and FAULT_ISOLATION the MC is in a sequencing state or IDLE. -/
theorem sequencing_iff (he : m.state ≠ .emergencyStop) (hf : m.state ≠ .faultIsolation) :
    (m.state = .coordinatedStart ∨ m.state = .running) ↔ m.state ≠ .idle := by
  cases hs : m.state with
  | coordinatedStart | running | idle => simp
  | emergencyStop => exact absurd hs he
  | faultIsolation => exact absurd hs hf

/-- Every active channel of a coordinated start is confirmed. -/
abbrev StartComplete (m : McState) : Prop := m.state = .coordinatedStart ∧ m.confirmed = m.active

theorem completeStart_of_complete (h : StartComplete m) : completeStart m = { m with state := .running } := if_pos h

theorem completeStart_of_not_complete (h : ¬ StartComplete m) : completeStart m = m := if_neg h

/-- After the completion a coordinated start is late if it is not complete and its time is up, a stop if its time is up. -/
theorem sequenceTimeout_completeStart_iff (cfg : Config) (now : Time) :
    sequenceTimeout cfg now (completeStart m) = true ↔
      (m.state = .coordinatedStart ∧ ¬ StartComplete m ∧ cfg.tSeqTimeout.toNat ≤ (now - m.tStartSeq).toNat) ∨
        (m.stopWait ≠ 0#4 ∧ cfg.tSeqTimeout.toNat ≤ (now - m.tStopSeq).toNat) := by
  by_cases hc : StartComplete m
  · simp [completeStart_of_complete hc, sequenceTimeout, timerDone_iff, hc]
  · simp [completeStart_of_not_complete hc, sequenceTimeout, timerDone_iff, hc]

end

/-! ### The ends of the master update -/

/-- With no new fault the sequence is over, or late, or goes on. -/
theorem masterUpdate_sequence {s : State} (hn : ∀ i, ¬ NewlyFaulted s.m i (s.unit i)) (he : s.m.state ≠ .emergencyStop)
    (hf : s.m.state ≠ .faultIsolation) :
    masterUpdate s =
      if sequenceDone (pollProgress s) then { s with m := { pollProgress s with state := .idle } }
      else if sequenceTimeout s.cfg s.now (completeStart (pollProgress s)) then
        isolate none 0 true { s with m := completeStart (pollProgress s) }
      else { s with m := completeStart (pollProgress s) } := by
  rw [masterUpdate_quiet s hn, if_neg (not_or.mpr ⟨he, hf⟩)]

/-- The MC's record of a sequence timeout (R89). -/
def timeoutRecord (m : McState) : McState :=
  { m with
    state := .faultIsolation
    active := 0
    confirmed := 0
    stopWait := 0
    lastFault := ⟨true, true, 0, 0⟩ }

/-- The isolation of a late sequence writes over what the completion wrote. -/
theorem isolate_completeStart_m {s : State} {m : McState} (h : s.m = completeStart m) :
    (isolate none 0 true s).m = timeoutRecord m := by
  rw [isolate_eq, h, completeStart_eq]
  rfl

/-- An isolation leaves no unit that another stop would change. -/
theorem isolate_stopped (c : Option Chan) (f : FaultMask) (b : Bool) (s : State) (j : Chan) :
    uStop ((isolate c f b s).unit j) = (isolate c f b s).unit j := by
  rw [isolate_eq, unit_mk, chanAt_perChan, uStop_uStop]

/-- The channels confirmed after polling. -/
theorem hasChan_pollProgress_confirmed (s : State) (j : Chan) : hasChan (pollProgress s).confirmed j = true ↔
    hasChan s.m.confirmed j = true ∨ (hasChan s.m.active j = true ∧ (s.unit j).state = .running) := by
  simp [pollProgress, hasChan_or, hasChan_chanSet]

/-- The channels still waited for after polling. -/
theorem hasChan_pollProgress_stopWait (s : State) (j : Chan) : hasChan (pollProgress s).stopWait j = true ↔
    hasChan s.m.stopWait j = true ∧ (s.unit j).state ≠ .idle := by
  simp [pollProgress, hasChan_and, hasChan_not, hasChan_chanSet]

section
variable {s t : State}

/-- The MC's record as the polling of the units leaves it in this TICK. -/
def polledRecord (s : State) : McState := pollProgress (beforeMaster s)

theorem polledRecord_eq (s : State) : polledRecord s =
    { s.m with confirmed := (polledRecord s).confirmed, stopWait := (polledRecord s).stopWait } := by
  rw [← beforeMaster_m s]
  rfl

theorem polledRecord_state (s : State) : (polledRecord s).state = s.m.state := by
  rw [polledRecord_eq]

/-- A TICK with no new fault ends the sequence, finds it late, or lets it go on. -/
theorem exec_tick_sequence (hi : s.sys.initialized = true) (h : exec .tick s = .next t) (he : s.m.state ≠ .emergencyStop)
    (hf : s.m.state ≠ .faultIsolation) (hn : ∀ j, ¬ NewlyFaulted s.m j (t.unit j)) :
    (sequenceDone (polledRecord s) = true → t.m = { polledRecord s with state := .idle }) ∧
    (¬ sequenceDone (polledRecord s) = true →
      sequenceTimeout s.cfg s.now (completeStart (polledRecord s)) = true →
      t.m = timeoutRecord (polledRecord s) ∧ ∀ j, uStop (t.unit j) = t.unit j) ∧
    (¬ sequenceDone (polledRecord s) = true →
      ¬ sequenceTimeout s.cfg s.now (completeStart (polledRecord s)) = true →
      t.m = completeStart (polledRecord s)) := by
  rw [← beforeMaster_m s] at he hf
  have hupdate := masterUpdate_sequence (fun j => mt (beforeMaster_newlyFaulted_iff hi h j).mp (hn j)) he hf
  rw [← controlCycle_eq, beforeMaster_cfg, beforeMaster_now, ← polledRecord] at hupdate
  refine ⟨fun hd => ?done, fun hd hl => ?late, fun hd hl => ?goesOn⟩
  case done => rw [exec_tick_m hi h, hupdate, if_pos hd]
  case late =>
    rw [if_neg hd, if_pos hl] at hupdate
    refine ⟨?_, fun j => ?_⟩
    · rw [exec_tick_m hi h, hupdate]
      exact isolate_completeStart_m rfl
    · rw [exec_tick_unit hi h, hupdate, isolate_stopped]
  case goesOn => rw [exec_tick_m hi h, hupdate, if_neg hd, if_neg hl]

end

/-! ### Transitions of the MC -/

/-- How a TICK can move the MC (R100, with the exception of log entry 13). -/
inductive TickTransition (s t : State) : Prop
  /-- A coordinated start completes, with channels active or, log entry 13, still stopping. -/
  | completes (hs : s.m.state = .coordinatedStart) (ht : t.m.state = .running) (hc : t.m.confirmed = t.m.active)
      (hleft : t.m.active ≠ 0#4 ∨ t.m.stopWait ≠ 0#4)
  /-- A sequence ends. -/
  | ends (hs : s.m.state = .coordinatedStart ∨ s.m.state = .running) (ht : t.m.state = .idle) (ha : t.m.active = 0#4)
      (hw : t.m.stopWait = 0#4)
  /-- A timeout or a unit in FAULT isolates. -/
  | isolates (hcause : t.m.lastFault.timeout = true ∨ ∃ j : Chan, (t.unit j).state = .fault)
      (hs : s.m.state ≠ .emergencyStop) (ht : t.m.state = .faultIsolation)

/-- Every transition in a TICK is one of these: with a new fault by the polling, else by the end the sequence comes to. -/
theorem exec_tick_transition {s t : State} (hi : s.sys.initialized = true) (h : exec .tick s = .next t)
    (hmoved : s.m.state ≠ t.m.state) : TickTransition s t := by
  have he : s.m.state ≠ .emergencyStop := fun he => hmoved (by rw [exec_tick_m_of_emergencyStop hi h he])
  by_cases hnew : ∃ j, NewlyFaulted s.m j (t.unit j)
  · obtain ⟨p, hp, hm, -⟩ := exec_tick_polled hi h he hnew
    obtain ⟨i, hnew⟩ := hnew
    obtain ⟨hstate, -⟩ := hp.isolates ⟨i, mem_polled i, (beforeMaster_newlyFaulted_iff hi h i).mpr hnew⟩
    exact .isolates (.inr ⟨i, hnew.1⟩) he (by rw [hm, hstate])
  · replace hnew : ∀ j, ¬ NewlyFaulted s.m j (t.unit j) := not_exists.mp hnew
    have hf : s.m.state ≠ .faultIsolation := fun hf => hmoved (by rw [exec_tick_m_of_faultIsolation hi h hf hnew])
    obtain ⟨hover, hlate, hgoesOn⟩ := exec_tick_sequence hi h he hf hnew
    have hstate := polledRecord_state s
    by_cases hd : sequenceDone (polledRecord s) = true
    · obtain ⟨hs, ha, hw⟩ := sequenceDone_iff.mp hd
      rw [hstate] at hs
      exact .ends hs (by rw [hover hd]) (by rw [hover hd, ha]) (by rw [hover hd, hw])
    by_cases hl : sequenceTimeout s.cfg s.now (completeStart (polledRecord s)) = true
    · obtain ⟨hm, -⟩ := hlate hd hl
      exact .isolates (.inl (by rw [hm]; rfl)) he (by rw [hm]; rfl)
    have hm := hgoesOn hd hl
    by_cases hc : StartComplete (polledRecord s)
    · obtain ⟨hs, hconfirmed⟩ := id hc
      have hleft : (polledRecord s).active ≠ 0#4 ∨ (polledRecord s).stopWait ≠ 0#4 :=
        not_and_or.mp fun hnone => hd (sequenceDone_iff.mpr ⟨.inl hs, hnone⟩)
      rw [completeStart_of_complete hc] at hm
      exact .completes (hstate.symm.trans hs) (by rw [hm]) (by rw [hm, hconfirmed]) (by rw [hm]; exact hleft)
    · rw [completeStart_of_not_complete hc] at hm
      exact absurd (by rw [hm, hstate]) hmoved

/-- The body of COORD_STOP keeps the MC's state. -/
theorem stopChannels_state (msk : ChanMask) (s : State) : (stopChannels msk s).m.state = s.m.state := by
  rw [stopChannels_eq]

end Sys2Proof.Machine
end

section
/-!
The obligations of 42_master_coordinator.md about the MC in a TICK, and the table of its transitions.
-/
namespace Sys2Proof.Machine

open Sys2Proof.Safety

/-- Settles O46: the TICK ends with the fault polling (`exec_tick_polled`), of which `Polled` says everything. -/
theorem tickIsolatesFaultedUnits : Obligations.TickIsolatesFaultedUnits := by
  intro s t i hi h hnew
  refine ⟨exec_tick_m_of_emergencyStop hi h, fun he hhighest => ?_⟩
  obtain ⟨p, hp, hm, hu⟩ := exec_tick_polled hi h he ⟨i, hnew⟩
  have hnewly := beforeMaster_newlyFaulted_iff hi h
  obtain ⟨hstate, hactive, hconfirmed, hwait, hinhibit, hstopped⟩ :=
    hp.isolates ⟨i, mem_polled i, (hnewly i).mpr hnew⟩
  have hlast := hp.lastFault i (mem_polled i) ((hnewly i).mpr hnew) (by decide)
    fun j hj => mt (hnewly j).mp (hhighest j hj)
  obtain ⟨hstartSeq, hstopSeq⟩ := hp.timers
  rw [beforeMaster_unit, ← exec_tick_latched hi h] at hlast
  rw [beforeMaster_m] at hinhibit hstartSeq hstopSeq
  simp only [hm]
  refine ⟨hstate, hactive, hconfirmed, hwait, hlast, fun j => ?faulted, fun j => ?stopped, hinhibit, hstartSeq, hstopSeq⟩
  case faulted =>
    rw [hp.faulted, hnewly, and_iff_right (mem_polled j), beforeMaster_m, NewlyFaulted]
    cases hasChan s.m.faulted j <;> simp
  case stopped =>
    rw [hu]
    exact stopped_of_uStop_eq (hstopped j)

/-- Settles O47: with no new fault outside the two lockout states, the ends of `exec_tick_sequence`, their conditions as the
statement writes them. -/
theorem tickDrivesSequence : Obligations.TickDrivesSequence := by
  intro s t hi h
  refine ⟨exec_tick_m_of_emergencyStop hi h, exec_tick_m_of_faultIsolation hi h, fun he hf hquiet => ?sequence⟩
  obtain ⟨hover, hlate, hgoesOn⟩ := exec_tick_sequence hi h he hf hquiet
  refine ⟨(polledRecord s).confirmed, (polledRecord s).stopWait, fun j => ?confirmed, fun j => ?wait, ?ends⟩
  case confirmed =>
    rw [polledRecord, hasChan_pollProgress_confirmed, beforeMaster_m, beforeMaster_unit, exec_tick_state hi h]
  case wait => rw [polledRecord, hasChan_pollProgress_stopWait, beforeMaster_m, beforeMaster_unit, exec_tick_state hi h]
  case ends =>
    intro polled done complete late
    have hpolled : polledRecord s = polled := polledRecord_eq s
    have hdone : sequenceDone polled = true ↔ done := by
      rw [sequenceDone_iff, sequencing_iff he hf]
    have htimeout : sequenceTimeout s.cfg s.now (completeStart polled) = true ↔ late :=
      sequenceTimeout_completeStart_iff _ _
    rw [hpolled] at hover hlate hgoesOn
    rw [hdone] at hover hlate hgoesOn
    rw [htimeout] at hlate hgoesOn
    refine ⟨hover, fun hd hl hc => ?complete, fun hd hl hc => ?stays, fun hd hl => ?late⟩
    case complete => exact (hgoesOn hd hl).trans (completeStart_of_complete hc)
    case stays => exact (hgoesOn hd hl).trans (completeStart_of_not_complete hc)
    case late =>
      obtain ⟨hm, hstopped⟩ := hlate hd hl
      exact ⟨hm, fun j => stopped_of_uStop_eq (hstopped j)⟩

/-- Settles O48: a rejection moves nothing; of the accepted commands COORD_START, REPORT_FAULT, REARM, ESTOP and INIT move
the MC as their effects say, a TICK as `exec_tick_transition` says, and no other does. -/
theorem masterTransitionTable : Obligations.MasterTransitionTable := by
  intro i s t h hmoved
  rcases exec_next h with ⟨c, -, rfl⟩ | ⟨v, x, ha, rfl⟩
  · exact absurd rfl hmoved
  cases ha with
  | coordStart _ msk _ _ _ hidle => exact .inl ⟨⟨msk, rfl⟩, hidle, rfl⟩
  | tick _ hi =>
    cases exec_tick_transition hi h hmoved with
    | completes hs ht hc hleft => exact .inr (.inl ⟨rfl, hs, ht, hc, hleft⟩)
    | ends hs ht hactive hwait => exact .inr (.inr (.inl ⟨rfl, hs, ht, hactive, hwait⟩))
    | isolates hcause hs ht => exact .inr (.inr (.inr (.inl ⟨.inr ⟨rfl, hcause⟩, hs, ht⟩)))
  | reportIsolated _ idx dat _ _ _ _ hes =>
    exact .inr (.inr (.inr (.inl ⟨.inl ⟨idx, dat, rfl⟩, hes, by rw [isolate_eq]⟩)))
  | rearm _ _ hisolated => exact .inr (.inr (.inr (.inr (.inl ⟨rfl, hisolated, rfl⟩))))
  | estop => exact .inr (.inr (.inr (.inr (.inr (.inl ⟨rfl, rfl⟩)))))
  | init => exact .inr (.inr (.inr (.inr (.inr (.inr ⟨rfl, rfl⟩)))))
  | coordStop | unitStop => exact absurd (stopChannels_state _ s).symm hmoved
  | _ => exact absurd rfl hmoved

end Sys2Proof.Machine
end

section
/-!
The effects of SET_SIM and INJECT_FAULT (43_diagnostics.md R102, R103).
-/
namespace Sys2Proof.Machine

open Sys2Proof.Safety

/-- Settles O35: every operand the statement names is valid, so each command is accepted with its one change to the unit,
and the operand's field is the value the statement writes. -/
theorem simAndInjectWriteTheirField : Obligations.SimAndInjectWriteTheirField := by
  intro s i hinit hdiag
  refine ⟨fun b => ?setSim, fun f hf => ?injectFault⟩
  case setSim =>
    obtain ⟨hvalid, hvalue⟩ := bool1_ite b
    exact (Accepted.setSim s _ _ i hdiag hinit (chanOf_idxOf i) hvalid).exec_onUnit (by rw [hvalue])
  case injectFault =>
    exact (Accepted.injectFault s _ _ i hdiag hinit (chanOf_idxOf i) (fmask5Valid_setWidth hf)).exec_onUnit
      (by rw [fmask5_setWidth])

end Sys2Proof.Machine
end

section
/-!
SUPPORT. The debounce of a held raw condition (60_exceptions.md R111), and what unlatches a fault class (R112, R115).
-/
namespace Sys2Proof.Machine

/-! ### Debounce -/

theorem debounce_level (d : Debounce) (now limit : Time) : debounce d d.level now limit = { d with pend := false } :=
  if_pos rfl

/-- A record without a wait, under a raw condition that differs from the level, is updated as if its wait began now. -/
theorem debounce_begins {d : Debounce} {r : Bool} (hr : d.level ≠ r) (hp : d.pend = false) (now limit : Time) :
    debounce d r now limit = debounce ⟨!r, true, now⟩ r now limit := by
  have hlevel : d.level = !r := Bool.eq_not_iff.mpr hr
  simp [debounce, hlevel, hp]

/-- A waiting record takes the raw condition over once the window has passed, and waits on until then. -/
theorem debounce_waiting (r : Bool) (t0 now limit : Time) :
    debounce ⟨!r, true, t0⟩ r now limit =
      if limit.toNat ≤ (now - t0).toNat then ⟨r, false, t0⟩ else ⟨!r, true, t0⟩ := by
  simp [debounce, timerDone_iff]

/-- A list of updates with the raw condition held: the first one past the window settles the record. -/
theorem foldl_debounce_waiting (r : Bool) (t0 limit : Time) (ts : List Time) :
    ts.foldl (fun d t => debounce d r t limit) ⟨!r, true, t0⟩ =
      if ∃ t ∈ ts, limit.toNat ≤ (t - t0).toNat then ⟨r, false, t0⟩ else ⟨!r, true, t0⟩ := by
  induction ts with
  | nil => simp
  | cons t ts ih =>
    rw [List.foldl_cons, debounce_waiting]
    by_cases ht : limit.toNat ≤ (t - t0).toNat
    · rw [if_pos ht, if_pos ⟨t, List.mem_cons_self, ht⟩]
      exact List.foldl_fixed' (fun now => debounce_level ⟨r, false, t0⟩ now limit) ts
    · rw [if_neg ht, ih]
      simp only [List.exists_mem_cons_iff, ht, false_or]

/-! ### Unlatching -/

theorem hasClass_one_iff (k : FaultClass) : hasClass 1#5 k = true ↔ k = .ovl := by
  cases k <;> decide

/-- Detection only adds to the latched set. -/
theorem Detected.keeps_latched {s : State} {i : Chan} {v : UnitState} {k : FaultClass} (d : Detected s i v)
    (h : hasClass (s.unit i).faults k = true) : hasClass v.faults k = true := by
  rw [d.faults, h]
  rfl

/-- A reset of class k is under way in `u`: a pulse for OVL, a pending clear for the others. -/
abbrev ResetsClass (u : UnitState) (k : FaultClass) : Prop :=
  (u.pulse = true ∧ k = .ovl) ∨ (u.pending = .clear ∧ k ≠ .ovl)

/-- The fault exit keeps the latched set, or resets a set of OVL alone by a pulse, or clears all but OVL. -/
theorem faultExit_faults (cfg : Config) (now : Time) (u : UnitState) :
    (faultExit cfg now u).faults = u.faults ∨ (u.pulse = true ∧ u.faults = 1#5) ∨
      (u.pending = .clear ∧ (faultExit cfg now u).faults = u.faults &&& 1#5) := by
  by_cases hp : u.pulse = true
  · by_cases ht : timerDone now u.tState cfg.tResetPulse = true
    · rw [faultExit_pulse_done hp ht]
      split
      · next hovl => exact .inr (.inl ⟨hp, ((ovlResettable_iff u).mp hovl).1⟩)
      · exact .inl rfl
    · exact .inl (congrArg UnitState.faults (faultExit_pulse_running hp ht))
  · have ho := faultExit_outcome cfg now u
    generalize faultExit cfg now u = w at ho
    cases ho with
    | pulseFailed h | pulseDone h => exact absurd h hp
    | clearedButOvl _ hc | cleared _ hc => exact .inr (.inr ⟨hc, rfl⟩)
    | waiting | requestFailed | pulseStarted => exact .inl rfl

theorem faultExit_unlatches {cfg : Config} {now : Time} {u : UnitState} {k : FaultClass}
    (hk : hasClass u.faults k = true) (hn : hasClass (faultExit cfg now u).faults k = false) : ResetsClass u k := by
  rcases faultExit_faults cfg now u with e | ⟨hp, e⟩ | ⟨hc, e⟩
  · rw [e, hk] at hn
    contradiction
  · rw [e] at hk
    exact .inl ⟨hp, (hasClass_one_iff k).mp hk⟩
  · rw [e, hasClass_and, hk, Bool.true_and] at hn
    exact .inr ⟨hc, fun hovl => by simp [(hasClass_one_iff k).mpr hovl] at hn⟩

/-- A unit's own update unlatches a class in FAULT only, by the reset under way. -/
theorem cycleUnit_unlatches {s : State} {j : Chan} {k : FaultClass} (hk : hasClass (s.unit j).faults k = true)
    (hn : hasClass (cycleUnit s j).faults k = false) : (s.unit j).state = .fault ∧ ResetsClass (s.unit j) k := by
  obtain ⟨v, d⟩ := exists_detected s j
  have hv : hasClass v.faults k = true := d.keeps_latched hk
  obtain ⟨-, -, -, -, -, -, -, -, -, -, hkept⟩ := d.kept
  by_cases hs : (s.unit j).state = .fault
  · rw [d.ofFault hs] at hn
    have hreset : ResetsClass v k := faultExit_unlatches hv hn
    rw [ResetsClass, d.pulse, d.pending] at hreset
    exact ⟨hs, hreset⟩
  · rw [hkept hs, hv] at hn
    contradiction

/-- Of all that a command can do to a unit, INIT and the unit's own update alone unlatch a class. -/
theorem UnitEffect.unlatches {s : State} {j : Chan} {i : Instr} {w : UnitState} {k : FaultClass}
    (h : UnitEffect s j i w) (hk : hasClass (s.unit j).faults k = true) (hn : hasClass w.faults k = false) :
    i = .init ∨ (i = .tick ∧ (s.unit j).state = .fault ∧ ResetsClass (s.unit j) k) := by
  cases h with
  | init => exact .inl rfl
  | tick => exact .inr ⟨rfl, cycleUnit_unlatches hk hn⟩
  | _ => exact absurd (hk.symm.trans hn) (by decide)

end Sys2Proof.Machine
end

section
/-!
The obligations of 60_exceptions.md about debounce and the latched faults.
-/
namespace Sys2Proof.Machine

/-- Settles O45: the first sample begins a wait from t0 (`debounce_begins`), so the held condition runs a waiting record
through the whole list (`foldl_debounce_waiting`). -/
theorem debounceLatchesAfterWindow : Obligations.DebounceLatchesAfterWindow := by
  refine ⟨?held, fun d limit now => debounce_level d now limit⟩
  case held =>
    intro d r limit t0 ts hr hp d1
    have hd1 : d1 = (t0 :: ts).foldl (fun d t => debounce d r t limit) ⟨!r, true, t0⟩ := by
      simp only [d1, List.foldl_cons, debounce_begins hr hp]
    rw [hd1, foldl_debounce_waiting]
    split
    · next hpast => exact ⟨iff_of_true rfl hpast, by simp, rfl⟩
    · next hpast => exact ⟨iff_of_false (by simp) hpast, by simp, rfl⟩

/-- Settles O52: an instance of `UnitEffect.unlatches`, for what the command did to the unit. -/
theorem latchedFaultsPersist : Obligations.LatchedFaultsPersist :=
  fun _ _ _ j _ h hk hn => (exec_unitEffect h j).unlatches hk hn

end Sys2Proof.Machine
end

section
/-!
The Reset transaction (70_reset_and_hazards.md R125).
-/
namespace Sys2Proof.Machine

/-- One step on a presented Reset restarts the block, with its parameters and the transactions still to come. -/
theorem step_reset {s : State} {rest : List Transaction} (hlegal : s.cfg.legal = true)
    (hport : s.port = .reset :: rest) : step s = .next (State.afterReset s.cfg rest) := by
  rw [step_of_port_cons hport, runTransaction_reset hlegal]

@[simp] theorem unit_afterReset (cfg : Config) (port : List Transaction) (i : Chan) :
    (State.afterReset cfg port).unit i = UnitState.afterReset i := by
  rw [State.afterReset, unit_mk, chanAt_perChan]

/-- Settles O9: the step answers `State.afterReset`, whose fields have the values of R37 as the statement writes them. -/
theorem resetGivesAfterResetValues : Obligations.ResetGivesAfterResetValues := by
  intro s rest hlegal hport
  refine ⟨State.afterReset s.cfg rest, step_reset hlegal hport, rfl, rfl, rfl, rfl, fun i => ?unit, rfl, rfl⟩
  case unit =>
    rw [unit_afterReset]
    rfl

end Sys2Proof.Machine
end
